-- ==== Sys2Proof/Word.lean ====
section
/-! DEFINITION. The two word types of the machine (00_scope.md R7: W = 16; 20_memory.md R80: the
byte is the addressable unit of every memory space). -/

namespace Sys2Proof

/-- A 16-bit register, IP or FLAGS value, and a local address (00_scope.md R7, R8). -/
abbrev Word := BitVec 16

/-- One byte of memory, of a port or of the instruction stream (20_memory.md R80). -/
abbrev Byte := BitVec 8

end Sys2Proof
end

