-- ==== Sys2Proof/Syntax.lean ====
section
/-! DEFINITION. The instructions of spec/opcode_table.json, one constructor per row, with their
operands as the decoder reads them (30_encoding.md R112, R115). -/

namespace Sys2Proof

/-- The 16-bit general registers in layout order (10_state.md R30, R31). IP and FLAGS cannot be
named by an instruction's register field (41_alu.md R190). -/
inductive Reg16 where
  | ax | cx | dx | bx | sp | bp | si | di
deriving DecidableEq, Repr

/-- The 8-bit sub-registers, in the index order of 10_state.md R34. -/
inductive Reg8 where
  | al | cl | dl | bl | ah | ch | dh | bh
deriving DecidableEq, Repr

/-- The parameter `INCDEC_OPCODES` (00_scope.md R12): whether bytes 0x40–0x4F decode as INC and DEC. -/
inductive IncDecOpcodes where
  | none | x86
deriving DecidableEq, Repr

/-- One constructor per row of spec/opcode_table.json, in the table's order. `rel` is the signed
displacement byte, `imm` of the ALU-immediate forms the byte that is sign extended, `port` the
port number (30_encoding.md R112, R114). -/
inductive Instr where
  | syscall
  | jo (rel : Byte)
  | jno (rel : Byte)
  | jb (rel : Byte)
  | jnb (rel : Byte)
  | jz (rel : Byte)
  | jnz (rel : Byte)
  | jbe (rel : Byte)
  | ja (rel : Byte)
  | js (rel : Byte)
  | jns (rel : Byte)
  | jp (rel : Byte)
  | jnp (rel : Byte)
  | jl (rel : Byte)
  | jge (rel : Byte)
  | jle (rel : Byte)
  | jg (rel : Byte)
  | addImm (rm : Reg16) (imm : Byte)
  | orImm (rm : Reg16) (imm : Byte)
  | andImm (rm : Reg16) (imm : Byte)
  | subImm (rm : Reg16) (imm : Byte)
  | xorImm (rm : Reg16) (imm : Byte)
  | cmpImm (rm : Reg16) (imm : Byte)
  | movImm (r : Reg16) (imm : Word)
  | movAl (moffs : Word)
  | inAx (port : Byte)
  | outAx (port : Byte)
  | jmp (rel : Byte)
  | iret
  | hlt
  | incReg (r : Reg16)
  | decReg (r : Reg16)
deriving DecidableEq, Repr

end Sys2Proof
end

