-- ==== Sys2Proof/Config.lean ====
section
/-! DEFINITION. What an implementation or a launch fixes (00_scope.md R9–R18), the data the outside
world hands to the block (60_exceptions.md R320, R330, R331), and the free values the spec leaves open. -/

namespace Sys2Proof

/-! ## Implementation parameters -/

/-- The kind of a CPU_FAULT status (10_state.md R52). -/
inductive FaultKind where
  | mem | priv
deriving DecidableEq, Repr

/-- The abstract process status (10_state.md R52). -/
inductive Status where
  | none
  | run
  | wait
  | exit (code : Int)
  | interrupt
  | sleep
  | cpuFault (kind : FaultKind)
deriving DecidableEq, Repr

/-- The parameter `status_code` (00_scope.md R15): the word of each status. EXIT carries an unbounded
integer. `exitListed` fixes the words of single codes; the word of any other code is one of `exitOther`
and `exitRest`, which one being `Config.exitChoice` of the code. So the map may be any
(`StatusCode.covers_every_map`; log 3). -/
structure StatusCode where
  none : Word
  run : Word
  wait : Word
  interrupt : Word
  sleep : Word
  faultMem : Word
  faultPriv : Word
  exitListed : List (Int × Word)
  exitOther : Word
  exitRest : List Word
deriving DecidableEq, Repr

/-- The parameter `on_syscall_abort` (00_scope.md R16). -/
inductive OnSyscallAbort where
  | exitWithStatus | keepStatus
deriving DecidableEq, Repr

/-- The open parameters of the implementation (00_scope.md R9, R10, R12, R13, R15, R16, R17). They are
carried by the state so that every statement holds for all of them (DESIGN CHOICE, log 1). -/
structure Config where
  /-- MEM_SIZE (R9). -/
  memSize : Nat
  /-- QUANTUM (R10). -/
  quantum : Nat
  /-- PCB_BASE (R13). -/
  pcbBase : Nat
  /-- TRACE_LEN (R17). -/
  traceLen : Nat
  /-- INCDEC_OPCODES (R12). -/
  incdec : IncDecOpcodes
  /-- status_code (R15). -/
  statusCode : StatusCode
  /-- on_syscall_abort (R16). -/
  onSyscallAbort : OnSyscallAbort
deriving DecidableEq, Repr

/-! ## Data the loader, the host and the drivers supply -/

namespace Machine

/-- A segment (10_state.md R46): the fields are non-negative integers, and bit 2 of `perms` is read,
bit 1 write, bit 0 execute. -/
structure Segment where
  globalStart : Nat
  localStart : Nat
  size : Nat
  perms : Nat
deriving DecidableEq, Repr

/-- The 20-byte register file, in layout order (10_state.md R30). -/
structure RegFile where
  ax : Word
  cx : Word
  dx : Word
  bx : Word
  sp : Word
  bp : Word
  si : Word
  di : Word
  ip : Word
  flags : Word
deriving DecidableEq, Repr, Inhabited

/-- The six-value vector of the trap path, in its order of presentation (44_system.md R250). -/
structure Vec6 where
  ax : Word
  bx : Word
  cx : Word
  dx : Word
  si : Word
  di : Word
deriving DecidableEq, Repr, Inhabited

/-- The contents of one 28-byte PCB block (10_state.md R51). -/
structure PcbBlock where
  status : Word
  moduleId : Byte
  ring : Byte
  pid : Word
  parent : Word
  regs : RegFile
deriving DecidableEq, Repr, Inhabited

/-- A device driver (10_state.md R55, 60_exceptions.md R320), an agent outside the block: `reads` are the
answers its coming `read_port` calls give (`none` is the empty sentinel), `clocks` the statuses its
coming `clock` calls give, `written` the bytes it has received, oldest first (log 11). The message of
`clock` is read by no rule (R324) and is left out. -/
structure Driver where
  port : Byte
  reads : List (Option Byte)
  clocks : List Int
  written : List Byte
deriving DecidableEq, Repr

/-- What the host may do while the engine waits for a trap call's answer (60_exceptions.md R331; log 19, log 25). -/
inductive HostEffect where
  /-- Write one byte of the backing memory. -/
  | poke (g : Nat) (b : Byte)
  /-- Append a PCB together with its PID's segment list. -/
  | appendPcb (block : PcbBlock) (segs : List Segment)
  /-- Give a PID a segment list. -/
  | setSegments (pid : Word) (segs : List Segment)
  /-- Change what a driver's coming calls give (the host called the driver). -/
  | driverQueues (port : Byte) (reads : List (Option Byte)) (clocks : List Int)
deriving DecidableEq, Repr

/-- The handler's reply: an updated six-register vector or an integer status (60_exceptions.md R330). -/
inductive TrapReply where
  | resume (v : Vec6)
  | abort (status : Int)
deriving DecidableEq, Repr, Inhabited

/-- The host's answer to one trap call: what it did meanwhile, then its reply (60_exceptions.md R330, R331). -/
structure TrapAnswer where
  effects : List HostEffect
  reply : TrapReply
deriving DecidableEq, Repr, Inhabited

/-- The launch parameters (00_scope.md R18): what the loader and the host establish before the first
pass, in the order of 70_reset_and_hazards.md R343. -/
structure Launch where
  cfg : Config
  drivers : List Driver
  image : List (Nat × Byte)
  segTable : List (Word × List Segment)
  pcbs : List PcbBlock
deriving DecidableEq, Repr

end Machine

/-! ## Free values

Each is an uninterpreted constant: no value of it can be computed or proved. The `Nat` argument of those
that are drawn is the state's counter of draws. -/

/-- Which of the words a code book keeps for EXIT is that of an exit code it does not list
(00_scope.md R15). FREE VALUE, log 3. -/
opaque Config.exitChoice : Int → Nat

/-- `port_empty_value` (00_scope.md R14, 44_system.md R256): a draw for every IN. FREE VALUE, log 12. -/
opaque Config.freePortEmptyValue : Nat → Word

/-- What a driver returns from `read_port` once its listed answers are used up: any byte, or the empty
sentinel (93_implementation_defined.md U6). FREE VALUE, log 11. -/
opaque Config.freePortAnswer : Byte → Nat → Option Byte

/-- The status a driver's `clock` gives once its listed results are used up (93_implementation_defined.md
U6, 60_exceptions.md R322). FREE VALUE, log 11. -/
opaque Config.freeClockStatus : Byte → Nat → Int

/-- The host's answer to a trap call for which the state lists none (93_implementation_defined.md U7, U8).
FREE VALUE, log 10. -/
opaque Config.freeTrapAnswer : Nat → Machine.TrapAnswer

end Sys2Proof
end

