-- ==== Sys2Proof/WellFormed.lean ====
section
/-! DEFINITION. What a well-formed instruction, parameter record and launch are. Operand fields are
well formed by their types; the remaining checks are the ones stated here. -/

namespace Sys2Proof

/-- INC and DEC are instructions only when `INCDEC_OPCODES = x86` (00_scope.md R12, 41_alu.md R198,
R199); every other instruction is well formed for every operand (30_encoding.md R119). -/
def Instr.wf (p : IncDecOpcodes) : Instr → Bool
  | .incReg _ => p == .x86
  | .decReg _ => p == .x86
  | _ => true

/-- A status word that is the code of EXIT(_) or CPU_FAULT(_) (10_state.md R52, 60_exceptions.md R302). -/
def StatusCode.isTerminal (c : StatusCode) (w : Word) : Bool :=
  w == c.faultMem || w == c.faultPriv || w == c.exitOther || c.exitRest.contains w ||
    c.exitListed.any (fun e => e.2 == w)

/-- The code book keeps the live statuses apart from the terminal ones (60_exceptions.md R302 decides
on the word alone), and the two fault kinds apart from each other (60_exceptions.md R303). -/
def StatusCode.wf (c : StatusCode) : Bool :=
  [c.none, c.run, c.wait, c.interrupt, c.sleep].all (fun w => !c.isTerminal w)
    && c.faultMem != c.faultPriv

/-- MEM_SIZE and QUANTUM are positive (00_scope.md R9, R10). -/
def Config.wf (c : Config) : Bool :=
  decide (0 < c.memSize) && decide (0 < c.quantum) && c.statusCode.wf

namespace Machine

/-- A port has one driver (10_state.md R55: the registry is a mapping). -/
def Launch.portsDistinct (l : Launch) : Bool :=
  decide ((l.drivers.map Driver.port).Nodup)

/-- The PCB table lies inside the backing memory (70_reset_and_hazards.md R344). -/
def Launch.tableFits (l : Launch) : Bool :=
  decide (l.cfg.pcbBase + 28 * l.pcbs.length ≤ l.cfg.memSize)

/-- The program images lie inside the backing memory (20_memory.md R83). -/
def Launch.imageFits (l : Launch) : Bool :=
  l.image.all (fun e => decide (e.1 < l.cfg.memSize))

/-- A launch the model accepts (70_reset_and_hazards.md R343, R344). -/
def Launch.wf (l : Launch) : Bool :=
  l.cfg.wf && l.portsDistinct && l.tableFits && l.imageFits

end Machine

end Sys2Proof
end

