-- ==== Sys2Proof/Decode.lean ====
section
/-! DEFINITION. Instruction decoding and encoding (30_encoding.md), and the bit-field, sign-extension
and byte-order helpers they share with the machine. -/

namespace Sys2Proof

/-! ## Fields and byte order -/

/-- `sext_16` (00_scope.md R20). -/
def sext16 (b : Byte) : Word := b.signExtend 16

/-- `zext_16` (00_scope.md R20). -/
def zext16 (b : Byte) : Word := b.setWidth 16

/-- Bits 7:0 of a word. -/
def lowByte (w : Word) : Byte := w.extractLsb' 0 8

/-- Bits 15:8 of a word. -/
def highByte (w : Word) : Byte := w.extractLsb' 8 8

/-- A word from its low and its high byte: `lo | hi << 8` (30_encoding.md R114, 20_memory.md R85). -/
def wordOfBytes (lo hi : Byte) : Word := hi ++ lo

/-- The register of a 3-bit index (10_state.md R31). -/
def reg16OfIndex (i : BitVec 3) : Reg16 :=
  match i.toNat with
  | 0 => .ax | 1 => .cx | 2 => .dx | 3 => .bx
  | 4 => .sp | 5 => .bp | 6 => .si | _ => .di

/-- The 3-bit index of a register (10_state.md R31). -/
def reg16Index : Reg16 → BitVec 3
  | .ax => 0#3 | .cx => 1#3 | .dx => 2#3 | .bx => 3#3
  | .sp => 4#3 | .bp => 5#3 | .si => 6#3 | .di => 7#3

/-- Bits 2:0: the field r of the opcode byte and rm of the ModRM byte (30_encoding.md R112). -/
def fieldLow3 (b : Byte) : BitVec 3 := b.extractLsb' 0 3

/-- Bits 5:3: the field reg of the ModRM byte (30_encoding.md R112). -/
def fieldReg (b : Byte) : BitVec 3 := b.extractLsb' 3 3

/-- Bits 7:6: the field mod of the ModRM byte (30_encoding.md R112). -/
def fieldMod (b : Byte) : BitVec 2 := b.extractLsb' 6 2

/-! ## Decoding -/

/-- Why a byte sequence gives no instruction. -/
inductive Reject where
  /-- `fatal DECODE` (30_encoding.md R118). -/
  | undecodable
  /-- ALU-immediate with reg 2 or 3: `fatal ALU_OP` (30_encoding.md R118, 41_alu.md R197). -/
  | unknownAluOp
  /-- The decoder needs a byte that does not exist (20_memory.md R84, 40_engine_cycle.md R145). -/
  | truncated
deriving DecidableEq, Repr

/-- The byte after the opcode byte, for a two-byte format. -/
def decodeByte (k : Byte → Instr) : List Byte → Except Reject Instr
  | b :: _ => .ok (k b)
  | [] => .error .truncated

/-- The two bytes after the opcode byte as a little-endian word (30_encoding.md R114). -/
def decodeWord (k : Word → Instr) : List Byte → Except Reject Instr
  | lo :: hi :: _ => .ok (k (wordOfBytes lo hi))
  | _ => .error .truncated

/-- Jcc by its condition nibble (30_encoding.md R116, 42_control_transfer.md R211). -/
def jccOfNibble (cc : BitVec 4) (rel : Byte) : Instr :=
  match cc.toNat with
  | 0x0 => .jo rel | 0x1 => .jno rel | 0x2 => .jb rel | 0x3 => .jnb rel
  | 0x4 => .jz rel | 0x5 => .jnz rel | 0x6 => .jbe rel | 0x7 => .ja rel
  | 0x8 => .js rel | 0x9 => .jns rel | 0xA => .jp rel | 0xB => .jnp rel
  | 0xC => .jl rel | 0xD => .jge rel | 0xE => .jle rel | _ => .jg rel

/-- The ALU-immediate instruction of a reg field, `none` for reg 2 and 3 (30_encoding.md R116). -/
def aluImmOfReg (reg : BitVec 3) (rm : Reg16) (imm : Byte) : Option Instr :=
  match reg.toNat with
  | 0 => some (.addImm rm imm)
  | 1 => some (.orImm rm imm)
  | 4 => some (.andImm rm imm)
  | 5 => some (.subImm rm imm)
  | 6 => some (.xorImm rm imm)
  | 7 => some (.cmpImm rm imm)
  | _ => none

/-- Opcode 0x83: the ModRM byte is judged before the immediate is read (30_encoding.md R116, R120). -/
def decodeAluImm : List Byte → Except Reject Instr
  | [] => .error .truncated
  | m :: rest =>
    if fieldMod m != 3#2 then .error .undecodable
    else if fieldReg m == 2#3 || fieldReg m == 3#3 then .error .unknownAluOp
    else match rest with
      | [] => .error .truncated
      | imm :: _ =>
        match aluImmOfReg (fieldReg m) (reg16OfIndex (fieldLow3 m)) imm with
        | some i => .ok i
        | none => .error .unknownAluOp

/-- Opcode 0x0F: SYSCALL if the second byte is 0x05 (30_encoding.md R116, R118). -/
def decodeSyscall : List Byte → Except Reject Instr
  | [] => .error .truncated
  | b :: _ => if b == 0x05#8 then .ok .syscall else .error .undecodable

/-- Opcodes 0x40–0x4F: INC for bit 3 = 0, DEC for bit 3 = 1, only under x86 (30_encoding.md R116). -/
def decodeIncDec (p : IncDecOpcodes) (op : Byte) : Except Reject Instr :=
  match p with
  | .none => .error .undecodable
  | .x86 =>
    .ok (if op.getLsbD 3 then .decReg (reg16OfIndex (fieldLow3 op)) else .incReg (reg16OfIndex (fieldLow3 op)))

/-- The decoder (30_encoding.md R116), by high nibble then low nibble, on the bytes of the window that
exist. It reads only the bytes the instruction has; what follows them has no effect (R145). -/
def decode (p : IncDecOpcodes) : List Byte → Except Reject Instr
  | [] => .error .truncated
  | op :: rest =>
    match (op.extractLsb' 4 4).toNat with
    | 0x0 => if op == 0x0F#8 then decodeSyscall rest else .error .undecodable
    | 0x4 => decodeIncDec p op
    | 0x7 => decodeByte (jccOfNibble (op.extractLsb' 0 4)) rest
    | 0x8 => if op == 0x83#8 then decodeAluImm rest else .error .undecodable
    | 0xA => if op == 0xA0#8 then decodeWord .movAl rest else .error .undecodable
    | 0xB => if op.getLsbD 3 then decodeWord (.movImm (reg16OfIndex (fieldLow3 op))) rest else .error .undecodable
    | 0xC => if op == 0xCF#8 then .ok .iret else .error .undecodable
    | 0xE =>
      if op == 0xE5#8 then decodeByte .inAx rest
      else if op == 0xE7#8 then decodeByte .outAx rest
      else if op == 0xEB#8 then decodeByte .jmp rest
      else .error .undecodable
    | 0xF => if op == 0xF4#8 then .ok .hlt else .error .undecodable
    | _ => .error .undecodable

/-! ## Encoding, from the formats of 30_encoding.md R113 and the opcode map of R117 -/

/-- The ModRM byte `11gggmmm` (30_encoding.md R113, format FM). -/
def modRm (g : BitVec 3) (r : Reg16) : Byte := 3#2 ++ g ++ reg16Index r

/-- The opcode byte `ooooorrr` (30_encoding.md R113, formats FR and F1R). -/
def opcodeReg (o : BitVec 5) (r : Reg16) : Byte := o ++ reg16Index r

/-- The bytes of an instruction in stream order (30_encoding.md R113, R117). -/
def encode : Instr → List Byte
  | .syscall => [0x0F#8, 0x05#8]
  | .jo d => [0x70#8, d]
  | .jno d => [0x71#8, d]
  | .jb d => [0x72#8, d]
  | .jnb d => [0x73#8, d]
  | .jz d => [0x74#8, d]
  | .jnz d => [0x75#8, d]
  | .jbe d => [0x76#8, d]
  | .ja d => [0x77#8, d]
  | .js d => [0x78#8, d]
  | .jns d => [0x79#8, d]
  | .jp d => [0x7A#8, d]
  | .jnp d => [0x7B#8, d]
  | .jl d => [0x7C#8, d]
  | .jge d => [0x7D#8, d]
  | .jle d => [0x7E#8, d]
  | .jg d => [0x7F#8, d]
  | .addImm r b => [0x83#8, modRm 0#3 r, b]
  | .orImm r b => [0x83#8, modRm 1#3 r, b]
  | .andImm r b => [0x83#8, modRm 4#3 r, b]
  | .subImm r b => [0x83#8, modRm 5#3 r, b]
  | .xorImm r b => [0x83#8, modRm 6#3 r, b]
  | .cmpImm r b => [0x83#8, modRm 7#3 r, b]
  | .movImm r v => [opcodeReg 0b10111#5 r, lowByte v, highByte v]
  | .movAl a => [0xA0#8, lowByte a, highByte a]
  | .inAx p => [0xE5#8, p]
  | .outAx p => [0xE7#8, p]
  | .jmp d => [0xEB#8, d]
  | .iret => [0xCF#8]
  | .hlt => [0xF4#8]
  | .incReg r => [opcodeReg 0b01000#5 r]
  | .decReg r => [opcodeReg 0b01001#5 r]

/-- The length of an instruction in bytes (30_encoding.md R117). -/
def Instr.length : Instr → Nat
  | .iret => 1
  | .hlt => 1
  | .incReg _ => 1
  | .decReg _ => 1
  | .addImm _ _ => 3
  | .orImm _ _ => 3
  | .andImm _ _ => 3
  | .subImm _ _ => 3
  | .xorImm _ _ => 3
  | .cmpImm _ _ => 3
  | .movImm _ _ => 3
  | .movAl _ => 3
  | _ => 2

/-- The opcode byte ib[0] (30_encoding.md R112), which the opcode trace records. -/
def opcodeByte (i : Instr) : Byte := (encode i).headD 0#8

/-! ## The opcode table's numbering of a row's bits -/

/-- The bytes, in stream order, of a row whose bits are the number `w`. spec/opcode_table.json writes a
row's `length` bytes as ONE number with the first byte leftmost, so the first byte is the most
significant of the `nbits` (30_encoding.md R117; log 8). Zero bytes follow, up to the longest
instruction. -/
def tableBytes (nbits w : Nat) : List Byte :=
  let n := nbits / 8
  (List.range n).map (fun k => BitVec.ofNat 8 (w >>> (8 * (n - 1 - k)))) ++ List.replicate (3 - n) 0#8

/-- The instruction the decoder reads from a row's bits. The table's INC and DEC rows exist under
`INCDEC_OPCODES = x86` only, so the table is read under that parameter (log 2). -/
def decodeTableWord (nbits w : Nat) : Option Instr :=
  match decode .x86 (tableBytes nbits w) with
  | .ok i => some i
  | .error _ => none

end Sys2Proof
end

