-- ==== Sys2Proof/Machine/State.lean ====
section
/-! DEFINITION. The state of the machine as plain data (10_state.md R56, R57), the reasons a step can
stop, and the state after reset (10_state.md R59). -/

namespace Sys2Proof.Machine

/-- Why a step ends with no next state. No instruction raises one. -/
inductive Fault where
  /-- Raised by `step` on a machine whose status is FATAL or SHUTDOWN: no step leaves them
  (60_exceptions.md R288). Safe: a stuck state (log 13). -/
  | machineStopped
  /-- Raised by the scheduler on a signal that R303 says cannot occur at the ring (PRIV_FAULT at ring 0,
  INT_DONE at another ring). Safe: no run reaches it (log 14). -/
  | impossibleSignal
deriving DecidableEq, Repr

/-- Why a step has no meaning. -/
inductive Refusal where
  /-- Raised by `exec`'s arm of an instruction with no meaning yet. Safe. -/
  | notModelled (mnemonic : String)
  /-- Raised by the scheduler, the poll, a machine stop's writeback and a host's append when a PCB block they need is not inside the
  backing memory (70_reset_and_hazards.md R344). Safe: the launch is refused (log 18). -/
  | pcbTableOutsideMemory
deriving DecidableEq, Repr

/-- The reasons of a machine stop (60_exceptions.md R285). -/
inductive FatalReason where
  | decode | aluOp | regUnknown | halt | kernelFault | bounds | unmappedPort | deviceFatal | deviceStatus
deriving DecidableEq, Repr

/-- The dump of a fatal stop: register file and opcode trace (60_exceptions.md R286). -/
structure Dump where
  regs : RegFile
  trace : List Byte
deriving DecidableEq, Repr

/-- The machine status (10_state.md R56, 60_exceptions.md R285, R287). -/
inductive MachineStatus where
  | running
  | fatal (reason : FatalReason) (dump : Dump)
  | shutdown
deriving DecidableEq, Repr

/-- The engine signals (60_exceptions.md R280). -/
inductive Signal where
  | quantumDone
  | memFault
  | privFault
  | syscallAbort (status : Int)
  | intDone
deriving DecidableEq, Repr

/-- The three places a trap call is made (60_exceptions.md R291). -/
inductive TrapKind where
  | syscall | fetchFault | shutdown
deriving DecidableEq, Repr

/-- Which agent moves next (20_memory.md R100: one thread of control; log 9). -/
inductive Phase where
  /-- The scheduler takes the next member of the pass (60_exceptions.md R300). -/
  | schedule
  /-- The engine is in its loop (40_engine_cycle.md R141). -/
  | running
  /-- The engine waits for the host's answer to a trap call that presents `v` (40_engine_cycle.md R154). -/
  | suspended (kind : TrapKind) (v : Vec6)
  /-- The invocation has ended with this signal; interpretation and writeback follow (60_exceptions.md R303, R304). -/
  | returned (sig : Signal)
  /-- The invocation has ended with a machine stop; the writeback and the stop follow (60_exceptions.md R303; log 15). -/
  | stopping (r : FatalReason)
  /-- The device poll is next (60_exceptions.md R321). -/
  | polling
deriving DecidableEq, Repr

/-- The scheduler's position (10_state.md R56; `members` and `ran` of 60_exceptions.md R300). -/
structure Sched where
  members : List Nat
  next : Nat
  ran : Bool
deriving DecidableEq, Repr

/-- The engine's state during one invocation (10_state.md R57): a copy of the PCB it runs
(60_exceptions.md R301), the step counter and the opcode trace, newest first. -/
structure Ctx where
  pcb : Nat
  ring : Byte
  pid : Word
  segs : List Segment
  statusWord : Word
  regs : RegFile
  steps : Nat
  trace : List Byte
deriving DecidableEq, Repr

/-- The backing memory (20_memory.md R81): strictly rising addresses, no cell equal to what an unlisted
address reads as. -/
abbrev Memory := List Host.Cell

/-- What an unlisted address reads as (DESIGN CHOICE, log 5). -/
def Memory.unlisted : Byte := 0#8

/-- The machine state. `phase`, `answers` and `draws` are the model's own fields (log 9, 10, 12). What is
left out as a whole is log 26. -/
structure State where
  /-- The implementation's parameters; no step changes them (log 1). -/
  cfg : Config
  /-- The backing memory, PCB blocks included (20_memory.md R81). -/
  mem : Memory
  /-- The length of the PCB table (10_state.md R56). -/
  pcbCount : Nat
  /-- The segment lists, out of band, by PID (10_state.md R47). -/
  segTable : List (Word × List Segment)
  /-- The port registry in registration order (10_state.md R55). -/
  drivers : List Driver
  /-- The machine-wide waiting flag (60_exceptions.md R323). -/
  waiting : Bool
  /-- The machine status (10_state.md R56). -/
  machine : MachineStatus
  /-- The scheduler's position (10_state.md R56). -/
  sched : Sched
  /-- Which agent moves next. -/
  phase : Phase
  /-- The engine's current context (10_state.md R57). -/
  ctx : Ctx
  /-- The host's answers to the coming trap calls, in order (log 10). -/
  answers : List TrapAnswer
  /-- The counter of draws. -/
  draws : Nat
deriving DecidableEq, Repr

/-- The parameters at reset: the spec's default for INCDEC_OPCODES (00_scope.md R12), DESIGN CHOICE for
the open ones (log 1). -/
def resetConfig : Config where
  memSize := 65536
  quantum := 256
  pcbBase := 0
  traceLen := 16
  incdec := .none
  statusCode := {
    none := 0, run := 1, wait := 2, interrupt := 3, sleep := 4,
    faultMem := 5, faultPriv := 6, exitListed := [], exitOther := 7, exitRest := [] }
  onSyscallAbort := .exitWithStatus

/-- The register file at reset: DESIGN CHOICE zero, the spec leaves it to the loader (10_state.md R59; log 6). -/
def resetRegs : RegFile where
  ax := 0
  cx := 0
  dx := 0
  bx := 0
  sp := 0
  bp := 0
  si := 0
  di := 0
  ip := 0
  flags := 0

/-- The engine's context at reset: step counter 0 and trace empty (10_state.md R59), the rest DESIGN
CHOICE zero (log 6). -/
def resetCtx : Ctx where
  pcb := 0
  ring := 0
  pid := 0
  segs := []
  statusWord := 0
  regs := resetRegs
  steps := 0
  trace := []

/-- The machine at reset (10_state.md R59, 70_reset_and_hazards.md R340): RUNNING, waiting 0, first pass
at PCB index 0, not suspended; the launch parameters are those of an empty launch (DESIGN CHOICE, log 7). -/
def State.reset : State where
  cfg := resetConfig
  mem := []
  pcbCount := 0
  segTable := []
  drivers := []
  waiting := false
  machine := .running
  sched := { members := [], next := 0, ran := false }
  phase := .schedule
  ctx := resetCtx
  answers := []
  draws := 0

end Sys2Proof.Machine
end

