-- ==== Sys2Proof/Machine/Ops.lean ====
section
/-! DEFINITION. The named operations over registers, memory, the MMU, ports and PCB blocks, and the
three ways an instruction leaves the engine: an engine signal, a machine stop and a trap call. -/

namespace Sys2Proof.Machine

/-- The three outcomes over this machine's types. -/
abbrev Outcome := Host.Outcome State Fault Refusal

/-! ## Register file (10_state.md R30–R38) -/

/-- `read(R)` of a 16-bit general register (10_state.md R35). -/
def RegFile.get (f : RegFile) : Reg16 → Word
  | .ax => f.ax
  | .cx => f.cx
  | .dx => f.dx
  | .bx => f.bx
  | .sp => f.sp
  | .bp => f.bp
  | .si => f.si
  | .di => f.di

/-- `write(R, v)` of a 16-bit general register (10_state.md R36). -/
def RegFile.set (f : RegFile) (r : Reg16) (v : Word) : RegFile :=
  match r with
  | .ax => { f with ax := v }
  | .cx => { f with cx := v }
  | .dx => { f with dx := v }
  | .bx => { f with bx := v }
  | .sp => { f with sp := v }
  | .bp => { f with bp := v }
  | .si => { f with si := v }
  | .di => { f with di := v }

/-- `write(IP, v)` (10_state.md R36). -/
def RegFile.setIp (f : RegFile) (v : Word) : RegFile := { f with ip := v }

/-- `write(FLAGS, v)` (10_state.md R36). -/
def RegFile.setFlags (f : RegFile) (v : Word) : RegFile := { f with flags := v }

/-- The word register an 8-bit register is a byte of, and whether it is the high byte (10_state.md R33). -/
def reg8Home : Reg8 → Reg16 × Bool
  | .al => (.ax, false)
  | .cl => (.cx, false)
  | .dl => (.dx, false)
  | .bl => (.bx, false)
  | .ah => (.ax, true)
  | .ch => (.cx, true)
  | .dh => (.dx, true)
  | .bh => (.bx, true)

/-- `read(R)` of an 8-bit register (10_state.md R33, R35). -/
def RegFile.getByte (f : RegFile) (r : Reg8) : Byte :=
  if (reg8Home r).2 then highByte (f.get (reg8Home r).1) else lowByte (f.get (reg8Home r).1)

/-- `write(R, v)` of an 8-bit register: the other byte of the word keeps its value (10_state.md R36). -/
def RegFile.setByte (f : RegFile) (r : Reg8) (v : Byte) : RegFile :=
  let w := f.get (reg8Home r).1
  f.set (reg8Home r).1 (if (reg8Home r).2 then wordOfBytes (lowByte w) v else wordOfBytes v (highByte w))

/-- The ten words in layout order (10_state.md R30, R32). -/
def RegFile.words (f : RegFile) : List Word :=
  [f.ax, f.cx, f.dx, f.bx, f.sp, f.bp, f.si, f.di, f.ip, f.flags]

/-- The 20 bytes of the register file, little-endian (10_state.md R32). -/
def RegFile.bytes (f : RegFile) : List Byte :=
  f.words.flatMap (fun w => [lowByte w, highByte w])

/-- `read_and_increment(IP)` (10_state.md R38). -/
def RegFile.readAndIncrementIp (f : RegFile) : Word × RegFile := (f.ip, f.setIp (f.ip + 1#16))

/-- An identifier of the register-file interface (10_state.md R34, R37): a word register by its layout
position, or a byte register by its 8-bit index (DESIGN CHOICE, log 20). -/
inductive RegIdent where
  | word (position : Nat)
  | byte (index : Nat)
deriving DecidableEq, Repr

/-- A register the interface can name: a general register, IP, FLAGS or an 8-bit register. -/
inductive RegName where
  | gen (r : Reg16)
  | ip
  | flags
  | sub (r : Reg8)
deriving DecidableEq, Repr

/-- The register of an identifier, `none` where it names none (10_state.md R32, R34, R37). -/
def regOfIdent : RegIdent → Option RegName
  | .word n => [RegName.gen .ax, .gen .cx, .gen .dx, .gen .bx, .gen .sp, .gen .bp, .gen .si, .gen .di, .ip, .flags][n]?
  | .byte n => [RegName.sub .al, .sub .cl, .sub .dl, .sub .bl, .sub .ah, .sub .ch, .sub .dh, .sub .bh][n]?

/-- The width of a register in bits (10_state.md R36). -/
def RegName.width : RegName → Nat
  | .sub _ => 8
  | _ => 16

/-- The interface's read, as a number (10_state.md R35). -/
def RegFile.readName (f : RegFile) : RegName → Nat
  | .gen r => (f.get r).toNat
  | .ip => f.ip.toNat
  | .flags => f.flags.toNat
  | .sub r => (f.getByte r).toNat

/-- The interface's write: the value is masked to the register's width (10_state.md R36). -/
def RegFile.writeName (f : RegFile) (n : RegName) (v : Nat) : RegFile :=
  match n with
  | .gen r => f.set r (BitVec.ofNat 16 v)
  | .ip => f.setIp (BitVec.ofNat 16 v)
  | .flags => f.setFlags (BitVec.ofNat 16 v)
  | .sub r => f.setByte r (BitVec.ofNat 8 v)

/-! ## The running register file -/

/-- The state with another register file in the engine's context. -/
def State.setRegs (s : State) (f : RegFile) : State := { s with ctx := { s.ctx with regs := f } }

/-- `reg[R]` (00_scope.md R21). -/
def State.reg (s : State) (r : Reg16) : Word := s.ctx.regs.get r

/-- `reg[R] <- v` (00_scope.md R21). -/
def State.setReg (s : State) (r : Reg16) (v : Word) : State := s.setRegs (s.ctx.regs.set r v)

/-- `reg[IP]`. -/
def State.ip (s : State) : Word := s.ctx.regs.ip

/-- `pc <- v`. -/
def State.setIp (s : State) (v : Word) : State := s.setRegs (s.ctx.regs.setIp v)

/-- The FLAGS word. -/
def State.flags (s : State) : Word := s.ctx.regs.flags

/-- Write the FLAGS word. -/
def State.setFlags (s : State) (v : Word) : State := s.setRegs (s.ctx.regs.setFlags v)

/-- ADVANCE by `len` bytes, modulo 2^16 (40_engine_cycle.md R150). -/
def State.advance (s : State) (len : Word) : State := s.setIp (s.ip + len)

/-! ## Backing memory (00_scope.md R22, 20_memory.md §1) -/

/-- `MemRead(g, 1)`. -/
def Memory.read : Memory → Nat → Byte
  | [], _ => Memory.unlisted
  | (a, b) :: m, g => if g = a then b else Memory.read m g

/-- One cell, or nothing where the byte is what an unlisted address reads as. -/
def Memory.cell (g : Nat) (b : Byte) : Memory := if b = Memory.unlisted then [] else [(g, b)]

/-- `MemWrite(g, 1, b)`, keeping the canonical form. -/
def Memory.write : Memory → Nat → Byte → Memory
  | [], g, b => Memory.cell g b
  | (a, c) :: m, g, b =>
    if g < a then Memory.cell g b ++ (a, c) :: m
    else if g = a then Memory.cell g b ++ m
    else (a, c) :: Memory.write m g b

/-- `MemWrite(g, n, v)` for the bytes of `v`, the first at `g` (00_scope.md R22). -/
def Memory.writeBytes : Memory → Nat → List Byte → Memory
  | m, _, [] => m
  | m, g, b :: bs => Memory.writeBytes (m.write g b) (g + 1) bs

/-- A little-endian word at `g` (20_memory.md R85). -/
def Memory.readWord (m : Memory) (g : Nat) : Word := wordOfBytes (m.read g) (m.read (g + 1))

/-- Every cell lies at or above `lo` and below `size`, addresses rise strictly, and no cell is equal to
what an unlisted address reads as. -/
def Memory.canonicalFrom (size : Nat) : Nat → Memory → Bool
  | _, [] => true
  | lo, (a, b) :: m => decide (lo ≤ a) && decide (a < size) && b != Memory.unlisted && Memory.canonicalFrom size (a + 1) m

/-- The canonical form of a memory of `size` bytes (20_memory.md R83). -/
def Memory.wf (size : Nat) (m : Memory) : Bool := Memory.canonicalFrom size 0 m

/-- The byte at a global address, `none` at or past MEM_SIZE (20_memory.md R84). -/
def State.byteAt (s : State) (g : Nat) : Option Byte :=
  if g < s.cfg.memSize then some (s.mem.read g) else none

/-! ## The MMU (20_memory.md §3) -/

/-- The access masks (10_state.md R46). -/
def maskRead : Nat := 4
def maskWrite : Nat := 2
def maskExecute : Nat := 1

/-- `s.local_start <= la < s.local_start + s.size` (20_memory.md R90). -/
def Segment.contains (g : Segment) (la : Nat) : Bool :=
  decide (g.localStart ≤ la) && decide (la < g.localStart + g.size)

/-- `(s.permission_bits & mask) == mask` (20_memory.md R90). -/
def Segment.permits (g : Segment) (mask : Nat) : Bool := g.perms &&& mask == mask

/-- `translate` (20_memory.md R90): the first containing segment decides; `none` is FAIL. -/
def translate : List Segment → Nat → Nat → Option Nat
  | [], _, _ => none
  | g :: gs, la, mask =>
    if g.contains la then
      if g.permits mask then some (g.globalStart + (la - g.localStart)) else none
    else translate gs la mask

/-- Translation of a local address of the running process. -/
def State.translate (s : State) (la : Word) (mask : Nat) : Option Nat :=
  Machine.translate s.ctx.segs la.toNat mask

/-! ## Leaving the engine: signals, machine stops, trap calls (60_exceptions.md §1, §2, §4) -/

/-- `stop <signal>`: the invocation ends with the engine signal (00_scope.md R23, 60_exceptions.md R280). -/
def State.stop (s : State) (sig : Signal) : State := { s with phase := .returned sig }

/-- `fatal <reason>` in an invocation: it ends, and the writeback, then the stop, follow (00_scope.md R23,
60_exceptions.md R285, R303; log 15). -/
def State.fatal (s : State) (r : FatalReason) : State := { s with phase := .stopping r }

/-- The machine stop: the status becomes FATAL with the dump of the register file and the trace
(60_exceptions.md R285, R286). -/
def State.stopMachine (s : State) (r : FatalReason) : State :=
  { s with machine := .fatal r { regs := s.ctx.regs, trace := s.ctx.trace } }

/-- `trap_call(v)`: the vector is presented and the machine waits (60_exceptions.md R291, 40_engine_cycle.md
R154). Trap entry saves nothing and changes no register. -/
def State.trapCall (s : State) (k : TrapKind) (v : Vec6) : State := { s with phase := .suspended k v }

/-- "a zeroed register vector" (60_exceptions.md R291). -/
def zeroVector : Vec6 := { ax := 0#16, bx := 0#16, cx := 0#16, dx := 0#16, si := 0#16, di := 0#16 }

/-- The snapshot AX, BX, CX, DX, SI, DI (44_system.md R250). -/
def RegFile.vector (f : RegFile) : Vec6 :=
  { ax := f.ax, bx := f.bx, cx := f.cx, dx := f.dx, si := f.si, di := f.di }

/-- The six registers written back from the answer (44_system.md R251). -/
def RegFile.setVector (f : RegFile) (v : Vec6) : RegFile :=
  { f with ax := v.ax, bx := v.bx, cx := v.cx, dx := v.dx, si := v.si, di := v.di }

/-- The trap's return for SYSCALL: resume writes the six registers, advances IP past both opcode bytes
and the quantum goes on (44_system.md R251); abort stops the invocation (44_system.md R252). -/
def State.syscallReturn (s : State) : TrapReply → State
  | .resume v => { s.setRegs (s.ctx.regs.setVector v) with phase := .running }.advance 2#16
  | .abort n => s.stop (.syscallAbort n)

/-- The register-file interface at machine level: an identifier that names no register is
`fatal REG_UNKNOWN` (10_state.md R37). No instruction uses an identifier. -/
def State.readIdent (s : State) (i : RegIdent) (k : Nat → Outcome) : Outcome :=
  match regOfIdent i with
  | some n => k (s.ctx.regs.readName n)
  | none => .next (s.fatal .regUnknown)

/-- The interface's write (10_state.md R36, R37). -/
def State.writeIdent (s : State) (i : RegIdent) (v : Nat) : State :=
  match regOfIdent i with
  | some n => s.setRegs (s.ctx.regs.writeName n v)
  | none => s.fatal .regUnknown

/-! ## Privilege (60_exceptions.md §5) -/

/-- IN, OUT, IRET and HLT (40_engine_cycle.md R147). -/
def isPrivileged : Instr → Bool
  | .inAx _ => true
  | .outAx _ => true
  | .iret => true
  | .hlt => true
  | _ => false

/-- The privilege check of a privileged instruction: at a non-zero ring PRIV_FAULT, and nothing is
touched (40_engine_cycle.md R147). -/
def State.atRing0 (s : State) (body : State) : Outcome :=
  if s.ctx.ring = 0#8 then .next body else .next (s.stop .privFault)

/-! ## Ports (10_state.md R55, 60_exceptions.md R320) -/

/-- The driver of a port, the first registered one (log 22). -/
def State.driverAt (s : State) (port : Byte) : Option Driver := s.drivers.find? (fun d => d.port == port)

/-- Replace the first driver of a port. -/
def updateDriver (port : Byte) (f : Driver → Driver) : List Driver → List Driver
  | [] => []
  | d :: ds => if d.port == port then f d :: ds else d :: updateDriver port f ds

/-- The answer of `read_port`: the driver's next listed one, or the free value (log 11). -/
def Driver.readAnswer (d : Driver) (n : Nat) : Option Byte :=
  match d.reads with
  | a :: _ => a
  | [] => Config.freePortAnswer d.port n

/-- The driver after `read_port`. -/
def Driver.afterRead (d : Driver) : Driver := { d with reads := d.reads.tail }

/-- The driver after `write_port(b)`. -/
def Driver.afterWrite (d : Driver) (b : Byte) : Driver := { d with written := d.written ++ [b] }

/-- The status of `clock`: the driver's next listed one, or the free value (log 11). -/
def Driver.clockStatus (d : Driver) (n : Nat) : Int :=
  match d.clocks with
  | c :: _ => c
  | [] => Config.freeClockStatus d.port n

/-- The driver after `clock`. -/
def Driver.afterClock (d : Driver) : Driver := { d with clocks := d.clocks.tail }

/-- A call of the outside world has used the free values of the current draw. -/
def State.countDraw (s : State) : State := { s with draws := s.draws + 1 }

/-- The state after a driver call on a port: the driver has changed its own state. -/
def State.callDriver (s : State) (port : Byte) (f : Driver → Driver) : State :=
  { s with drivers := updateDriver port f s.drivers }

/-! ## PCB blocks (10_state.md §5) -/

/-- PCB_STRIDE (00_scope.md R13). -/
def pcbStride : Nat := 28

/-- The base of PCB block `n` (10_state.md R51). -/
def State.pcbAddr (s : State) (n : Nat) : Nat := s.cfg.pcbBase + pcbStride * n

/-- The PCB table lies inside the backing memory (70_reset_and_hazards.md R344). -/
def State.tableFits (s : State) : Bool := decide (s.pcbAddr s.pcbCount ≤ s.cfg.memSize)

/-- PCB `n` is a block of a table that lies inside the backing memory. -/
def State.hasPcb (s : State) (n : Nat) : Bool := decide (n < s.pcbCount) && s.tableFits

/-- The status word of PCB `n` (offset 0). -/
def State.pcbStatus (s : State) (n : Nat) : Word := s.mem.readWord (s.pcbAddr n)

/-- The module id of PCB `n` (offset 2); read by no rule of the block (10_state.md R54). -/
def State.pcbModuleId (s : State) (n : Nat) : Byte := s.mem.read (s.pcbAddr n + 2)

/-- The ring of PCB `n` (offset 3). -/
def State.pcbRing (s : State) (n : Nat) : Byte := s.mem.read (s.pcbAddr n + 3)

/-- The PID of PCB `n` (offset 4). -/
def State.pcbPid (s : State) (n : Nat) : Word := s.mem.readWord (s.pcbAddr n + 4)

/-- The parent PID of PCB `n` (offset 6); read by no rule of the block (10_state.md R54). -/
def State.pcbParent (s : State) (n : Nat) : Word := s.mem.readWord (s.pcbAddr n + 6)

/-- The register file of PCB `n` (offsets 8 to 27). -/
def State.pcbRegs (s : State) (n : Nat) : RegFile :=
  let b := s.pcbAddr n
  { ax := s.mem.readWord (b + 8), cx := s.mem.readWord (b + 10)
    dx := s.mem.readWord (b + 12), bx := s.mem.readWord (b + 14)
    sp := s.mem.readWord (b + 16), bp := s.mem.readWord (b + 18)
    si := s.mem.readWord (b + 20), di := s.mem.readWord (b + 22)
    ip := s.mem.readWord (b + 24), flags := s.mem.readWord (b + 26) }

/-- The bytes of a whole block (10_state.md R51). -/
def PcbBlock.bytes (p : PcbBlock) : List Byte :=
  [lowByte p.status, highByte p.status, p.moduleId, p.ring, lowByte p.pid, highByte p.pid,
    lowByte p.parent, highByte p.parent] ++ RegFile.bytes p.regs

/-- The segment list of a PID, empty where none exists (10_state.md R47, R49). -/
def State.segsOf (s : State) (pid : Word) : List Segment := (s.segTable.lookup pid).getD []

/-- Give a PID a segment list, in the place of any it had. -/
def setSegs (t : List (Word × List Segment)) (pid : Word) (segs : List Segment) : List (Word × List Segment) :=
  (pid, segs) :: t.filter (fun e => e.1 != pid)

/-- `status_code(EXIT(n))` for a choice among the words kept for the codes not listed. -/
def exitWord (c : StatusCode) (choice : Int → Nat) (n : Int) : Word :=
  (c.exitListed.lookup n).getD (c.exitRest[choice n]?.getD c.exitOther)

/-- `status_code(status)` (10_state.md R52). -/
def statusWordOf (c : StatusCode) : Status → Word
  | .none => c.none
  | .run => c.run
  | .wait => c.wait
  | .exit n => exitWord c Config.exitChoice n
  | .interrupt => c.interrupt
  | .sleep => c.sleep
  | .cpuFault .mem => c.faultMem
  | .cpuFault .priv => c.faultPriv

/-- PCB `n` is runnable: its status is neither EXIT(_) nor CPU_FAULT(_) (60_exceptions.md R302; log 4). -/
def State.runnable (s : State) (n : Nat) : Bool := !s.cfg.statusCode.isTerminal (s.pcbStatus n)

/-! ## Launch (00_scope.md R18, 70_reset_and_hazards.md R340, R343) -/

/-- The backing memory the loader leaves: the images, then one block per process from PCB_BASE. -/
def Launch.memory (l : Launch) : Memory :=
  Memory.writeBytes (l.image.foldl (fun m e => m.write e.1 e.2) []) l.cfg.pcbBase (l.pcbs.flatMap PcbBlock.bytes)

/-- The machine at the start of the first pass of a launch (70_reset_and_hazards.md R340). -/
def State.launch (l : Launch) : State :=
  { State.reset with
    cfg := l.cfg
    mem := Launch.memory l
    pcbCount := l.pcbs.length
    segTable := l.segTable
    drivers := l.drivers
    sched := { members := List.range l.pcbs.length, next := 0, ran := false } }

end Sys2Proof.Machine
end

