-- ==== Sys2Proof/Machine/Flags.lean ====
section
/-! DEFINITION. The ALU function (41_alu.md §1) and the FLAGS word (10_state.md §2). -/

namespace Sys2Proof.Machine

/-- The eight ALU operations (41_alu.md R170). -/
inductive AluOp where
  | add | or | and | sub | xor | cmp | inc | dec
deriving DecidableEq, Repr

/-- The five flags the ALU takes and gives (41_alu.md R170). -/
structure FlagBits where
  cf : Bool
  pf : Bool
  zf : Bool
  sf : Bool
  ov : Bool
deriving DecidableEq, Repr

/-- What the ALU returns: the result, the echo of operand b (41_alu.md R182) and the flags. -/
structure AluResult (w : Nat) where
  result : BitVec w
  echo : BitVec w
  flags : FlagBits
deriving DecidableEq, Repr

/-- PF: the low byte has an even number of 1 bits (41_alu.md R172). -/
def evenParity (b : Byte) : Bool :=
  !(b.getLsbD 0 ^^ b.getLsbD 1 ^^ b.getLsbD 2 ^^ b.getLsbD 3 ^^
    b.getLsbD 4 ^^ b.getLsbD 5 ^^ b.getLsbD 6 ^^ b.getLsbD 7)

/-- The result flags ZF, SF, PF of `r` beside a given CF and OF (41_alu.md R172). -/
def resultFlags {w : Nat} (r : BitVec w) (cf ov : Bool) : FlagBits :=
  { cf := cf, pf := evenParity (r.setWidth 8), zf := r == 0#w, sf := r.msb, ov := ov }

/-- OF of an addition: same-sign operands, a result of the other sign (41_alu.md R173). -/
def addOverflow {w : Nat} (a b r : BitVec w) : Bool := a.msb == b.msb && r.msb != a.msb

/-- OF of a subtraction (41_alu.md R174). -/
def subOverflow {w : Nat} (a b r : BitVec w) : Bool := a.msb != b.msb && r.msb != a.msb

/-- The ALU function `apply` (41_alu.md R170–R182), at the width of its operands. Only INC and DEC use
an incoming flag, and only CF. -/
def aluApply {w : Nat} (op : AluOp) (a b : BitVec w) (fl : FlagBits) : AluResult w :=
  match op with
  | .add =>
    let r := a + b
    ⟨r, b, resultFlags r (decide (2 ^ w ≤ a.toNat + b.toNat)) (addOverflow a b r)⟩
  | .sub =>
    let r := a - b
    ⟨r, b, resultFlags r (decide (a.toNat < b.toNat)) (subOverflow a b r)⟩
  | .cmp =>
    let d := a - b
    ⟨a, b, resultFlags d (decide (a.toNat < b.toNat)) (subOverflow a b d)⟩
  | .or => ⟨a ||| b, b, resultFlags (a ||| b) false false⟩
  | .and => ⟨a &&& b, b, resultFlags (a &&& b) false false⟩
  | .xor => ⟨a ^^^ b, b, resultFlags (a ^^^ b) false false⟩
  | .inc =>
    let r := a + 1#w
    ⟨r, b, resultFlags r fl.cf (decide (a.toNat = 2 ^ (w - 1) - 1))⟩
  | .dec =>
    let r := a - 1#w
    ⟨r, b, resultFlags r fl.cf (decide (a.toNat = 2 ^ (w - 1)))⟩

/-- The five named flags of a FLAGS word (10_state.md R40). -/
def flagBits (f : Word) : FlagBits :=
  { cf := f.getLsbD 0, pf := f.getLsbD 2, zf := f.getLsbD 6, sf := f.getLsbD 7, ov := f.getLsbD 11 }

/-- A flag as bit `n` of a word. -/
def flagAt (b : Bool) (n : Nat) : Word := (BitVec.ofBool b).setWidth 16 <<< n

/-- The FLAGS update of an ALU instruction: bits 0, 2, 6, 7, 11 written, the other eleven kept
(41_alu.md R183). -/
def mergeFlags (f : Word) (b : FlagBits) : Word :=
  (f &&& ~~~0x08C5#16) ||| flagAt b.cf 0 ||| flagAt b.pf 2 ||| flagAt b.zf 6 ||| flagAt b.sf 7 ||| flagAt b.ov 11

/-- The conditions of the sixteen jumps (42_control_transfer.md R211), even ones first. -/
inductive Cond where
  | o | no | b | nb | z | nz | be | a | s | ns | p | np | l | ge | le | g
deriving DecidableEq, Repr

/-- When a condition holds (42_control_transfer.md R211). -/
def Cond.holds (f : FlagBits) : Cond → Bool
  | .o => f.ov
  | .no => !f.ov
  | .b => f.cf
  | .nb => !f.cf
  | .z => f.zf
  | .nz => !f.zf
  | .be => f.cf || f.zf
  | .a => !f.cf && !f.zf
  | .s => f.sf
  | .ns => !f.sf
  | .p => f.pf
  | .np => !f.pf
  | .l => f.sf != f.ov
  | .ge => f.sf == f.ov
  | .le => f.zf || f.sf != f.ov
  | .g => !f.zf && f.sf == f.ov

end Sys2Proof.Machine
end

