-- ==== Sys2Proof/Machine/Operands.lean ====
section
/-! DEFINITION. The operand forms: register and sign-extended immediate through the ALU, the relative
jump target, and the absolute byte in memory (30_encoding.md R114). -/

namespace Sys2Proof.Machine

/-- The result is written unless the operation is CMP (41_alu.md R175, R190). -/
def State.writeResult (s : State) (op : AluOp) (r : Reg16) (v : Word) : State :=
  if op = .cmp then s else s.setReg r v

/-- An ALU operation on a register and operand b: FLAGS merged, the result written unless the operation
is CMP, IP advanced (41_alu.md R190, R198). -/
def State.aluReg (s : State) (op : AluOp) (r : Reg16) (b : Word) (len : Word) : State :=
  let out := aluApply op (s.reg r) b (flagBits s.flags)
  ((s.writeResult op r out.result).setFlags (mergeFlags s.flags out.flags)).advance len

/-- The relative jump: IP moves past the instruction, and by the displacement if taken
(42_control_transfer.md R210). -/
def State.jumpRel (s : State) (taken : Bool) (rel : Byte) : State :=
  let next := s.ip + 2#16
  s.setIp (if taken then next + sext16 rel else next)

/-- The conditional jump (42_control_transfer.md R210, R211). -/
def State.jumpIf (s : State) (c : Cond) (rel : Byte) : State :=
  s.jumpRel (c.holds (flagBits s.flags)) rel

/-- What the byte operand [moffs16] is: its value, a failed translation, or an address past the memory
(43_data_movement.md R241). -/
inductive ByteOperand where
  | value (b : Byte)
  | fail
  | outside
deriving DecidableEq, Repr

/-- The byte at an absolute local address, read with READ permission (43_data_movement.md R240, R241). -/
def State.loadByte (s : State) (moffs : Word) : ByteOperand :=
  match s.translate moffs maskRead with
  | none => .fail
  | some g =>
    match s.byteAt g with
    | some b => .value b
    | none => .outside

end Sys2Proof.Machine
end

