-- ==== Sys2Proof/Machine/Alu.lean ====
section
/-! DEFINITION. The ALU instructions (41_alu.md §2, §3). -/

namespace Sys2Proof.Machine

/-- ADD r16, imm8 (41_alu.md R191). -/
def execAddImm (rm : Reg16) (imm : Byte) (s : State) : Outcome := .next (s.aluReg .add rm (sext16 imm) 3#16)

/-- OR r16, imm8 (41_alu.md R192). -/
def execOrImm (rm : Reg16) (imm : Byte) (s : State) : Outcome := .next (s.aluReg .or rm (sext16 imm) 3#16)

/-- AND r16, imm8 (41_alu.md R193). -/
def execAndImm (rm : Reg16) (imm : Byte) (s : State) : Outcome := .next (s.aluReg .and rm (sext16 imm) 3#16)

/-- SUB r16, imm8 (41_alu.md R194). -/
def execSubImm (rm : Reg16) (imm : Byte) (s : State) : Outcome := .next (s.aluReg .sub rm (sext16 imm) 3#16)

/-- XOR r16, imm8 (41_alu.md R195). -/
def execXorImm (rm : Reg16) (imm : Byte) (s : State) : Outcome := .next (s.aluReg .xor rm (sext16 imm) 3#16)

/-- CMP r16, imm8 (41_alu.md R196). -/
def execCmpImm (rm : Reg16) (imm : Byte) (s : State) : Outcome := .next (s.aluReg .cmp rm (sext16 imm) 3#16)

/-- INC r16 (41_alu.md R198). Whether its bytes decode to it is the decoder's matter. -/
def execIncReg (r : Reg16) (s : State) : Outcome := .next (s.aluReg .inc r 0#16 1#16)

/-- DEC r16 (41_alu.md R199). -/
def execDecReg (r : Reg16) (s : State) : Outcome := .next (s.aluReg .dec r 0#16 1#16)

end Sys2Proof.Machine
end

