-- ==== Sys2Proof/Machine/Control.lean ====
section
/-! DEFINITION. The jumps (42_control_transfer.md §2, §3). -/

namespace Sys2Proof.Machine

/-- JO rel8 (42_control_transfer.md R212). -/
def execJo (rel : Byte) (s : State) : Outcome := .next (s.jumpIf .o rel)

/-- JNO rel8 (42_control_transfer.md R213). -/
def execJno (rel : Byte) (s : State) : Outcome := .next (s.jumpIf .no rel)

/-- JB rel8 (42_control_transfer.md R214). -/
def execJb (rel : Byte) (s : State) : Outcome := .next (s.jumpIf .b rel)

/-- JNB rel8 (42_control_transfer.md R215). -/
def execJnb (rel : Byte) (s : State) : Outcome := .next (s.jumpIf .nb rel)

/-- JZ rel8 (42_control_transfer.md R216). -/
def execJz (rel : Byte) (s : State) : Outcome := .next (s.jumpIf .z rel)

/-- JNZ rel8 (42_control_transfer.md R217). -/
def execJnz (rel : Byte) (s : State) : Outcome := .next (s.jumpIf .nz rel)

/-- JBE rel8 (42_control_transfer.md R218). -/
def execJbe (rel : Byte) (s : State) : Outcome := .next (s.jumpIf .be rel)

/-- JA rel8 (42_control_transfer.md R219). -/
def execJa (rel : Byte) (s : State) : Outcome := .next (s.jumpIf .a rel)

/-- JS rel8 (42_control_transfer.md R220). -/
def execJs (rel : Byte) (s : State) : Outcome := .next (s.jumpIf .s rel)

/-- JNS rel8 (42_control_transfer.md R221). -/
def execJns (rel : Byte) (s : State) : Outcome := .next (s.jumpIf .ns rel)

/-- JP rel8 (42_control_transfer.md R222). -/
def execJp (rel : Byte) (s : State) : Outcome := .next (s.jumpIf .p rel)

/-- JNP rel8 (42_control_transfer.md R223). -/
def execJnp (rel : Byte) (s : State) : Outcome := .next (s.jumpIf .np rel)

/-- JL rel8 (42_control_transfer.md R224). -/
def execJl (rel : Byte) (s : State) : Outcome := .next (s.jumpIf .l rel)

/-- JGE rel8 (42_control_transfer.md R225). -/
def execJge (rel : Byte) (s : State) : Outcome := .next (s.jumpIf .ge rel)

/-- JLE rel8 (42_control_transfer.md R226). -/
def execJle (rel : Byte) (s : State) : Outcome := .next (s.jumpIf .le rel)

/-- JG rel8 (42_control_transfer.md R227). -/
def execJg (rel : Byte) (s : State) : Outcome := .next (s.jumpIf .g rel)

/-- JMP rel8 (42_control_transfer.md R228). -/
def execJmp (rel : Byte) (s : State) : Outcome := .next (s.jumpRel true rel)

end Sys2Proof.Machine
end

