-- ==== Sys2Proof/Machine/Data.lean ====
section
/-! DEFINITION. The data movement instructions (43_data_movement.md). -/

namespace Sys2Proof.Machine

/-- MOV r16, imm16 (43_data_movement.md R230). -/
def execMovImm (r : Reg16) (imm : Word) (s : State) : Outcome := .next ((s.setReg r imm).advance 3#16)

/-- MOV AL, [moffs16] (43_data_movement.md R241): AH keeps its value; a failed translation stops with
MEM_FAULT and no trap call; an address past the memory is `fatal BOUNDS`. -/
def execMovAl (moffs : Word) (s : State) : Outcome :=
  match s.loadByte moffs with
  | .value b => .next ((s.setRegs (s.ctx.regs.setByte .al b)).advance 3#16)
  | .fail => .next (s.stop .memFault)
  | .outside => .next (s.fatal .bounds)

end Sys2Proof.Machine
end

