-- ==== Sys2Proof/Machine/System.lean ====
section
/-! DEFINITION. The system instructions (44_system.md). -/

namespace Sys2Proof.Machine

/-- SYSCALL (44_system.md R250): the six registers are presented and the step is suspended; the host's
answer completes it (`State.syscallReturn`). Legal at every ring. -/
def execSyscall (s : State) : Outcome := .next (s.trapCall .syscall (RegFile.vector s.ctx.regs))

/-- The value IN writes: the driver's byte, zero extended, or the free value for the empty sentinel
(44_system.md R255, R256). -/
def State.portValue (s : State) (d : Driver) : Word :=
  match d.readAnswer s.draws with
  | some b => zext16 b
  | none => Config.freePortEmptyValue s.draws

/-- IN AX, port8 (44_system.md R255, R256, R258): ring 0 only. -/
def execInAx (port : Byte) (s : State) : Outcome :=
  s.atRing0 (match s.driverAt port with
    | none => s.fatal .unmappedPort
    | some d => ((s.callDriver port Driver.afterRead).countDraw.setReg .ax (s.portValue d)).advance 2#16)

/-- OUT port8, AX (44_system.md R257, R258): ring 0 only; the driver takes the low byte of AX. -/
def execOutAx (port : Byte) (s : State) : Outcome :=
  s.atRing0 (match s.driverAt port with
    | none => s.fatal .unmappedPort
    | some _ => (s.callDriver port (fun d => d.afterWrite (s.ctx.regs.getByte .al))).advance 2#16)

/-- IRET (44_system.md R260): ring 0 only; IP moves past it and the invocation ends with INT_DONE. -/
def execIret (s : State) : Outcome := s.atRing0 ((s.advance 1#16).stop .intDone)

/-- HLT (44_system.md R261): ring 0 only; the machine stops. -/
def execHlt (s : State) : Outcome := s.atRing0 (s.fatal .halt)

end Sys2Proof.Machine
end

