-- ==== Sys2Proof/Machine/Dispatch.lean ====
section
/-! DEFINITION. EXECUTE: one arm per instruction (40_engine_cycle.md R148). -/

namespace Sys2Proof.Machine

def exec (i : Instr) (s : State) : Host.Outcome State Fault Refusal :=
  match i with
  | .syscall => Sys2Proof.Machine.execSyscall s
  | .jo rel => Sys2Proof.Machine.execJo rel s
  | .jno rel => Sys2Proof.Machine.execJno rel s
  | .jb rel => Sys2Proof.Machine.execJb rel s
  | .jnb rel => Sys2Proof.Machine.execJnb rel s
  | .jz rel => Sys2Proof.Machine.execJz rel s
  | .jnz rel => Sys2Proof.Machine.execJnz rel s
  | .jbe rel => Sys2Proof.Machine.execJbe rel s
  | .ja rel => Sys2Proof.Machine.execJa rel s
  | .js rel => Sys2Proof.Machine.execJs rel s
  | .jns rel => Sys2Proof.Machine.execJns rel s
  | .jp rel => Sys2Proof.Machine.execJp rel s
  | .jnp rel => Sys2Proof.Machine.execJnp rel s
  | .jl rel => Sys2Proof.Machine.execJl rel s
  | .jge rel => Sys2Proof.Machine.execJge rel s
  | .jle rel => Sys2Proof.Machine.execJle rel s
  | .jg rel => Sys2Proof.Machine.execJg rel s
  | .addImm rm imm => Sys2Proof.Machine.execAddImm rm imm s
  | .orImm rm imm => Sys2Proof.Machine.execOrImm rm imm s
  | .andImm rm imm => Sys2Proof.Machine.execAndImm rm imm s
  | .subImm rm imm => Sys2Proof.Machine.execSubImm rm imm s
  | .xorImm rm imm => Sys2Proof.Machine.execXorImm rm imm s
  | .cmpImm rm imm => Sys2Proof.Machine.execCmpImm rm imm s
  | .movImm r imm => Sys2Proof.Machine.execMovImm r imm s
  | .movAl moffs => Sys2Proof.Machine.execMovAl moffs s
  | .inAx port => Sys2Proof.Machine.execInAx port s
  | .outAx port => Sys2Proof.Machine.execOutAx port s
  | .jmp rel => Sys2Proof.Machine.execJmp rel s
  | .iret => Sys2Proof.Machine.execIret s
  | .hlt => Sys2Proof.Machine.execHlt s
  | .incReg r => Sys2Proof.Machine.execIncReg r s
  | .decReg r => Sys2Proof.Machine.execDecReg r s

end Sys2Proof.Machine
end

