-- ==== Sys2Proof/Machine/Engine.lean ====
section
/-! DEFINITION. The engine's loop: budget, FETCH, DECODE, EXECUTE (40_engine_cycle.md). -/

namespace Sys2Proof.Machine

/-- FETCH_WINDOW (00_scope.md R11). -/
def fetchWindow : Nat := 16

/-- The bytes of the instruction window that exist: `g` to `g + 15`, cut at the end of the memory
(40_engine_cycle.md R145). -/
def State.window (s : State) (g : Nat) : List Byte :=
  (List.range (min fetchWindow (s.cfg.memSize - g))).map (fun k => s.mem.read (g + k))

/-- One more step of the quantum (40_engine_cycle.md R141). -/
def State.countStep (s : State) : State := { s with ctx := { s.ctx with steps := s.ctx.steps + 1 } }

/-- The opcode trace records the opcode of an instruction that is executed, so not of a privileged one
that the privilege check turns away (40_engine_cycle.md R147, R153); the newest TRACE_LEN are kept
(log 16). -/
def State.noteExecuted (s : State) (i : Instr) : State :=
  if isPrivileged i && s.ctx.ring != 0#8 then s
  else { s with ctx := { s.ctx with trace := (opcodeByte i :: s.ctx.trace).take s.cfg.traceLen } }

/-- The machine stop of a byte sequence that gives no instruction (30_encoding.md R118, 20_memory.md R84). -/
def rejectReason : Reject → FatalReason
  | .undecodable => .decode
  | .unknownAluOp => .aluOp
  | .truncated => .bounds

/-- The fetch fault: a trap call with six zeros at a non-zero ring, then MEM_FAULT; at ring 0 MEM_FAULT
without the call (40_engine_cycle.md R144). -/
def State.fetchFault (s : State) : State :=
  if s.ctx.ring = 0#8 then s.stop .memFault else s.trapCall .fetchFault zeroVector

/-- One step of the engine (40_engine_cycle.md R142). -/
def runInstruction (s : State) : Outcome :=
  match s.translate s.ip maskExecute with
  | none => .next s.fetchFault
  | some g =>
    match decode s.cfg.incdec (s.window g) with
    | .error r => .next (s.fatal (rejectReason r))
    | .ok i => exec i (s.noteExecuted i)

/-- One turn of the quantum's loop: the budget is tested before the fetch (40_engine_cycle.md R141). -/
def engineTurn (s : State) : Outcome :=
  if s.ctx.steps < s.cfg.quantum then runInstruction s.countStep else .next (s.stop .quantumDone)

end Sys2Proof.Machine
end

