-- ==== Sys2Proof/Machine/Load.lean ====
section
/-! DEFINITION. Placing one instruction where the engine fetches next: the loader's and host's part
(70_reset_and_hazards.md R343), for `State.withFetchWord`. -/

namespace Sys2Proof.Machine

/-- Room for the longest instruction. -/
def longestInstr : Nat := 3

/-- Where the engine would fetch its next instruction: the machine runs, an invocation is under way with
budget left, IP translates, and the longest instruction lies in the memory. -/
def State.fetchAddr (s : State) : Option Nat :=
  if s.machine = .running ∧ s.phase = .running ∧ s.ctx.steps < s.cfg.quantum then
    match s.translate s.ip maskExecute with
    | some g => if g + longestInstr ≤ s.cfg.memSize then some g else none
    | none => none
  else none

/-- The first byte after the PCB table (of at least one block). -/
def State.loadAddr (s : State) : Nat := s.cfg.pcbBase + pcbStride * max 1 s.pcbCount

/-- A launch in which an invocation of PCB 0 is under way: the table has a block, a segment maps IP to
`loadAddr` with every permission, and memory and budget are large enough (log 7). -/
def State.beginInvocation (s : State) : State :=
  { s with
    cfg := { s.cfg with
      memSize := max s.cfg.memSize (s.loadAddr + longestInstr)
      quantum := max s.cfg.quantum 1 }
    pcbCount := max 1 s.pcbCount
    machine := .running
    phase := .running
    ctx := { s.ctx with
      segs := { globalStart := s.loadAddr, localStart := s.ip.toNat, size := longestInstr, perms := 7 } :: s.ctx.segs
      steps := 0 } }

/-- INC and DEC are fetched as instructions under `INCDEC_OPCODES = x86` only (log 2). -/
def State.allowOpcode (s : State) (bs : List Byte) : State :=
  if (bs.headD 0#8).extractLsb' 4 4 = 4#4 then { s with cfg := { s.cfg with incdec := .x86 } } else s

/-- Store the bytes where the engine fetches next, beginning an invocation where there is none. -/
def State.placeBytes (s : State) (bs : List Byte) : State :=
  match s.fetchAddr with
  | some g => { s with mem := s.mem.writeBytes g bs }.allowOpcode bs
  | none => { s.beginInvocation with mem := s.mem.writeBytes s.loadAddr bs }.allowOpcode bs

end Sys2Proof.Machine
end

