-- ==== Sys2Proof/Machine/Trap.lean ====
section
/-! DEFINITION. The host's side of a trap call: what it may do while the engine waits, and what its
answer makes of the suspended step (60_exceptions.md §4, §9). -/

namespace Sys2Proof.Machine

/-- The state with a block appended to the PCB table, and its PID's segment list with it
(60_exceptions.md R330). -/
def State.appendPcb (s : State) (block : PcbBlock) (segs : List Segment) : State :=
  { s with
    mem := s.mem.writeBytes (s.pcbAddr s.pcbCount) (PcbBlock.bytes block)
    pcbCount := s.pcbCount + 1
    segTable := setSegs s.segTable block.pid segs }

/-- One act of the host during a suspension (60_exceptions.md R331). A write outside the backing memory
writes nothing (log 19); an append whose block would not lie in the memory is refused (log 18). -/
def State.hostEffect (s : State) : HostEffect → Option State
  | .poke g b => some (if g < s.cfg.memSize then { s with mem := s.mem.write g b } else s)
  | .appendPcb block segs => if (s.appendPcb block segs).tableFits then some (s.appendPcb block segs) else none
  | .setSegments pid segs => some { s with segTable := setSegs s.segTable pid segs }
  | .driverQueues port reads clocks =>
    some (s.callDriver port (fun d => { d with reads := reads, clocks := clocks }))

/-- The acts of the host in order, `none` once one is refused. -/
def State.hostEffects (s : State) : List HostEffect → Option State
  | [] => some s
  | e :: es =>
    match s.hostEffect e with
    | some t => t.hostEffects es
    | none => none

/-- The host's answer: the next listed one, or the free value (log 10). -/
def State.hostAnswer (s : State) : TrapAnswer :=
  match s.answers with
  | a :: _ => a
  | [] => Config.freeTrapAnswer s.draws

/-- The state once the host's answer has been taken. -/
def State.takeAnswer (s : State) : State := { s with answers := s.answers.tail }.countDraw

/-- What the answer makes of the suspended step: SYSCALL resumes or aborts (44_system.md R251, R252); the
fetch fault discards the reply and returns MEM_FAULT (40_engine_cycle.md R144); the shutdown request
discards it and ends the machine (60_exceptions.md R287, R322). -/
def State.trapReturn (s : State) : TrapKind → TrapReply → State
  | .syscall, r => s.syscallReturn r
  | .fetchFault, _ => s.stop .memFault
  | .shutdown, _ => { s with machine := .shutdown }

/-- The host's move: its acts, then its reply (60_exceptions.md R330, R331). -/
def hostMove (s : State) (k : TrapKind) : Outcome :=
  match s.takeAnswer.hostEffects s.hostAnswer.effects with
  | some t => .next (t.trapReturn k s.hostAnswer.reply)
  | none => .refused .pcbTableOutsideMemory

end Sys2Proof.Machine
end

