-- ==== Sys2Proof/Machine/Scheduler.lean ====
section
/-! DEFINITION. The scheduler: selection and context load, signal interpretation, writeback and the
device poll (60_exceptions.md §6, §7). -/

namespace Sys2Proof.Machine

/-- The context of PCB `n`, copied from its block, with the engine's step counter and trace cleared
(60_exceptions.md R301, 10_state.md R59). -/
def State.contextOf (s : State) (n : Nat) : Ctx where
  pcb := n
  ring := s.pcbRing n
  pid := s.pcbPid n
  segs := s.segsOf (s.pcbPid n)
  statusWord := s.pcbStatus n
  regs := s.pcbRegs n
  steps := 0
  trace := []

/-- The member under the scheduler's index has had its turn. -/
def State.nextMember (s : State) (ran : Bool) : State :=
  { s with sched := { s.sched with next := s.sched.next + 1, ran := ran } }

/-- The start of a pass: the members are the PCBs in the table now (60_exceptions.md R307). -/
def State.startPass (s : State) : State :=
  { s with sched := { members := List.range s.pcbCount, next := 0, ran := false } }

/-- The scheduler's turn (60_exceptions.md R300): a non-runnable member is skipped (R302), a runnable one
loaded and its invocation begun; at the end of the pass the next begins, after one poll if no member
ran (R308; log 24). -/
def scheduleTurn (s : State) : Outcome :=
  match s.sched.members[s.sched.next]? with
  | none => .next (if s.sched.ran then s.startPass else { s.startPass with phase := .polling })
  | some n =>
    if s.hasPcb n then
      if s.runnable n then .next { s.nextMember true with ctx := s.contextOf n, phase := .running }
      else .next (s.nextMember s.sched.ran)
    else .refused .pcbTableOutsideMemory

/-- What the scheduler makes of a signal (60_exceptions.md R303). -/
inductive Verdict where
  | keep
  | setStatus (st : Status)
  | kernelStop
  | impossible
deriving DecidableEq, Repr

/-- Signal interpretation at a ring, under `on_syscall_abort` (60_exceptions.md R303, R306). -/
def interpret (o : OnSyscallAbort) (ring : Byte) : Signal → Verdict
  | .quantumDone => .keep
  | .memFault => if ring = 0#8 then .kernelStop else .setStatus (.cpuFault .mem)
  | .privFault => if ring = 0#8 then .impossible else .setStatus (.cpuFault .priv)
  | .syscallAbort n =>
    match o with
    | .exitWithStatus => .setStatus (.exit n)
    | .keepStatus => .keep
  | .intDone => if ring = 0#8 then .keep else .impossible

/-- The memory after a writeback of the register file and a status word to the running process's block;
the module id, ring, PID and parent PID bytes are not written (60_exceptions.md R304). -/
def State.writebackMem (s : State) (w : Word) : Memory :=
  (s.mem.writeBytes (s.pcbAddr s.ctx.pcb) [lowByte w, highByte w]).writeBytes
    (s.pcbAddr s.ctx.pcb + 8) (RegFile.bytes s.ctx.regs)

/-- Writeback (60_exceptions.md R304). -/
def State.writeback (s : State) (w : Word) : State :=
  { s with mem := s.writebackMem w, ctx := { s.ctx with statusWord := w } }

/-- The end of a quantum: interpretation, writeback, then the poll (60_exceptions.md R300, R303, R304), or
KERNEL_FAULT. -/
def endQuantum (s : State) (sig : Signal) : Outcome :=
  if s.hasPcb s.ctx.pcb then
    match interpret s.cfg.onSyscallAbort s.ctx.ring sig with
    | .keep => .next { s.writeback s.ctx.statusWord with phase := .polling }
    | .setStatus st => .next { s.writeback (statusWordOf s.cfg.statusCode st) with phase := .polling }
    | .kernelStop => .next (s.fatal .kernelFault)
    | .impossible => .fault .impossibleSignal
  else .refused .pcbTableOutsideMemory

/-- A machine stop in an invocation: the writeback is still made, the status unchanged, before the stop
(60_exceptions.md R303, R304; log 15, log 21). -/
def stopTurn (s : State) (r : FatalReason) : Outcome :=
  if s.hasPcb s.ctx.pcb then .next ((s.writeback s.ctx.statusWord).stopMachine r)
  else .refused .pcbTableOutsideMemory

/-- How a poll ends (60_exceptions.md R322). -/
inductive PollEnd where
  | allOk
  | fatal (r : FatalReason)
  | shutdown
deriving DecidableEq, Repr

/-- What a non-zero clock status means (60_exceptions.md R322). -/
def pollEndOf (status : Int) : PollEnd :=
  if status = -1 then .fatal .deviceFatal
  else if status = 2 then .shutdown
  else .fatal .deviceStatus

/-- Clock the devices in registry order: the first non-zero status decides and the devices after it are
not clocked (60_exceptions.md R321, R322). `n` is the counter of draws. -/
def clockDrivers (n : Nat) : List Driver → PollEnd × List Driver × Nat
  | [] => (.allOk, [], n)
  | d :: ds =>
    if d.clockStatus n = 0 then
      let r := clockDrivers (n + 1) ds
      (r.1, d.afterClock :: r.2.1, r.2.2)
    else (pollEndOf (d.clockStatus n), d.afterClock :: ds, n + 1)

/-- Some PCB with a non-zero ring is runnable (60_exceptions.md R323). -/
def State.userRunnable (s : State) : Bool :=
  (List.range s.pcbCount).any (fun n => s.pcbRing n != 0#8 && s.runnable n)

/-- The device poll (60_exceptions.md R321–R323). Its machine stops come after the writeback of the quantum. -/
def pollTurn (s : State) : Outcome :=
  if s.tableFits then
    let r := clockDrivers s.draws s.drivers
    let t : State := { s with drivers := r.2.1, draws := r.2.2 }
    match r.1 with
    | .allOk => .next { t with waiting := t.userRunnable, phase := .schedule }
    | .fatal reason => .next (t.stopMachine reason)
    | .shutdown => .next (t.trapCall .shutdown zeroVector)
  else .refused .pcbTableOutsideMemory

end Sys2Proof.Machine
end

