-- ==== Sys2Proof/Machine/Step.lean ====
section
/-! DEFINITION. One step of the machine: the move of the agent whose turn it is (20_memory.md R100). -/

namespace Sys2Proof.Machine

/-- One step. A machine that is FATAL or SHUTDOWN takes none (60_exceptions.md R288). -/
def step (s : State) : Host.Outcome State Fault Refusal :=
  match s.machine with
  | .running =>
    match s.phase with
    | .schedule => scheduleTurn s
    | .running => engineTurn s
    | .suspended k _ => hostMove s k
    | .returned sig => endQuantum s sig
    | .stopping r => stopTurn s r
    | .polling => pollTurn s
  | .fatal _ _ => .fault .machineStopped
  | .shutdown => .fault .machineStopped

/-- The state with the instruction of an opcode-table row stored where `step` fetches next (log 7, log 8). -/
def State.withFetchWord (s : State) (nbits w : Nat) : State := s.placeBytes (tableBytes nbits w)

end Sys2Proof.Machine
end

