-- ==== Sys2Proof/Safety.lean ====
section
/-! DEFINITION. The terms claims are stated in: the next state of an outcome, what an instruction may
change, the flags of a result by their meaning, and the invariant of the machine. -/

namespace Sys2Proof.Machine

/-- The next state, where there is one. -/
def nextState? : Outcome → Option State
  | .next s => some s
  | .fault _ => none
  | .refused _ => none

/-! ## Frames -/

/-- Nothing but the running register file differs. -/
def OnlyRegs (s t : State) : Prop := t = s.setRegs t.ctx.regs

/-- Every byte of memory reads as before. -/
def SameMemory (s t : State) : Prop := ∀ g, t.mem.read g = s.mem.read g

/-- The bits of FLAGS no ALU instruction writes read as before (41_alu.md R183). -/
def SameReservedFlags (s t : State) : Prop := t.flags &&& ~~~0x08C5#16 = s.flags &&& ~~~0x08C5#16

/-- Every general register but `r` reads as before. -/
def SameRegsBut (r : Reg16) (s t : State) : Prop := ∀ q, q ≠ r → t.reg q = s.reg q

/-- Every general register reads as before. -/
def SameRegs (s t : State) : Prop := ∀ q, t.reg q = s.reg q

/-- The six registers of a vector and the two that no vector holds. -/
def HoldsVector (t : State) (v : Vec6) : Prop :=
  t.reg .ax = v.ax ∧ t.reg .bx = v.bx ∧ t.reg .cx = v.cx ∧ t.reg .dx = v.dx ∧ t.reg .si = v.si ∧ t.reg .di = v.di

/-- The instructions that write FLAGS (10_state.md R39, R41). -/
def writesFlags : Instr → Bool
  | .addImm _ _ => true
  | .orImm _ _ => true
  | .andImm _ _ => true
  | .subImm _ _ => true
  | .xorImm _ _ => true
  | .cmpImm _ _ => true
  | .incReg _ => true
  | .decReg _ => true
  | _ => false

/-! ## Flags by their meaning -/

/-- The number of 1 bits of a byte (00_scope.md R20). -/
def popcount (b : Byte) : Nat := ((List.range 8).filter (fun k => b.getLsbD k)).length

/-- ZF, SF and PF of a result (41_alu.md R172). -/
def ResultFlagsOf {w : Nat} (r : BitVec w) (f : FlagBits) : Prop :=
  (f.zf = true ↔ r.toNat = 0) ∧ (f.sf = true ↔ 2 ^ (w - 1) ≤ r.toNat) ∧
    (f.pf = true ↔ popcount (BitVec.ofNat 8 r.toNat) % 2 = 0)

/-- An integer outside the signed range of `w` bits (41_alu.md R174). -/
def OutsideSigned (w : Nat) (v : Int) : Prop := v < -(2 ^ (w - 1) : Int) ∨ (2 ^ (w - 1) : Int) ≤ v

/-- An instruction that moves IP past its two bytes, by the displacement as well when `cond` holds of
FLAGS, and changes nothing else (42_control_transfer.md R210). -/
def JumpsWhen (mk : Byte → Instr) (cond : Word → Prop) : Prop :=
  ∀ (rel : Byte) (s : State), ∃ t, exec (mk rel) s = .next t ∧
    (cond s.flags → (t.ip.toNat : Int) = ((s.ip.toNat : Int) + 2 + rel.toInt) % 65536) ∧
    (¬ cond s.flags → t.ip.toNat = (s.ip.toNat + 2) % 65536) ∧
    t = s.setIp t.ip

/-! ## The invariant -/

/-- An invocation is under way or has just ended: the context is that of PCB `ctx.pcb`. -/
def Phase.inQuantum : Phase → Bool
  | .running => true
  | .suspended .syscall _ => true
  | .suspended .fetchFault _ => true
  | .returned _ => true
  | .stopping _ => true
  | _ => false

/-- What every reachable state satisfies. -/
structure Inv (s : State) : Prop where
  /-- The memory has its canonical form and lies below MEM_SIZE. -/
  memory : s.mem.wf s.cfg.memSize = true
  /-- The PCB table lies inside the memory (70_reset_and_hazards.md R344). -/
  table : s.tableFits = true
  /-- The members of the pass are PCBs of the table (60_exceptions.md R307). -/
  members : ∀ n ∈ s.sched.members, n < s.pcbCount
  /-- The PCB whose quantum it is, is in the table. -/
  current : s.phase.inQuantum = true → s.ctx.pcb < s.pcbCount
  /-- The step counter never passes the budget (40_engine_cycle.md R141). -/
  budget : s.ctx.steps ≤ s.cfg.quantum
  /-- The trace keeps at most TRACE_LEN opcodes (00_scope.md R17). -/
  trace : s.ctx.trace.length ≤ s.cfg.traceLen
  /-- PRIV_FAULT comes from a non-zero ring only (60_exceptions.md R303). -/
  privFault : s.phase = .returned .privFault → s.ctx.ring ≠ 0#8
  /-- INT_DONE comes from ring 0 only (60_exceptions.md R303). -/
  intDone : s.phase = .returned .intDone → s.ctx.ring = 0#8
  /-- The fetch fault's trap call is made at a non-zero ring, with six zeros (40_engine_cycle.md R144). -/
  fetchTrap : ∀ v, s.phase = .suspended .fetchFault v → s.ctx.ring ≠ 0#8 ∧ v = zeroVector
  /-- SYSCALL presents the running register file (44_system.md R250). -/
  syscallTrap : ∀ v, s.phase = .suspended .syscall v → v = RegFile.vector s.ctx.regs

end Sys2Proof.Machine
end

