-- ==== Sys2Proof/Certificates/Slice0/Obligations.lean ====
section
/-! DEFINITION. The statements about the model, from the rules of spec/. -/

open Sys2Proof Sys2Proof.Machine

/-! ## Encoding (30_encoding.md) -/

/-- Decoding the encoding of a well-formed instruction gives it back, with every operand at every value,
whatever bytes follow (30_encoding.md sections 3 to 5). -/
def Obligations.DecodeEncodeRoundTrip : Prop :=
  ∀ (p : IncDecOpcodes) (i : Instr) (rest : List Byte), i.wf p = true → decode p (encode i ++ rest) = .ok i

/-- A byte sequence that decodes to an instruction begins with that instruction's encoding: a word has
one meaning and no unlisted encoding is taken for a listed one (30_encoding.md sections 5, 6). -/
def Obligations.DecodedBytesAreTheEncoding : Prop :=
  ∀ (p : IncDecOpcodes) (i : Instr) (bs : List Byte), decode p bs = .ok i →
    i.wf p = true ∧ ∃ rest, bs = encode i ++ rest

/-- Words written out from 30_encoding.md section 3 and 95_test_vectors.md decode to what they stand for. -/
def Obligations.SpecWordsDecode : Prop :=
  decode .none [0x0F, 0x05] = .ok .syscall ∧
  decode .none [0x74, 0x05] = .ok (.jz 0x05) ∧
  decode .none [0x83, 0xC3, 0x05] = .ok (.addImm .bx 0x05) ∧
  decode .none [0x83, 0xF8, 0x2A] = .ok (.cmpImm .ax 0x2A) ∧
  decode .none [0xBC, 0xFE, 0xFF] = .ok (.movImm .sp 0xFFFE) ∧
  decode .none [0xA0, 0x05, 0x10] = .ok (.movAl 0x1005) ∧
  decode .none [0xE5, 0x10] = .ok (.inAx 0x10) ∧
  decode .none [0xCF] = .ok .iret ∧
  decode .x86 [0x4F] = .ok (.decReg .di)

/-- The illegal encodings (30_encoding.md section 6): a first byte outside the opcode map, 0x40–0x4F included
unless `INCDEC_OPCODES = x86` (decision D9), 0x0F with another second byte, and 0x83 with mod ≠ 11
(decision D7) are undecodable; 0x83 with mod = 11 and reg 2 or 3 names no ALU operation (decision D6),
before the immediate is read. -/
def Obligations.IllegalEncodingsAreRejected : Prop :=
  ∀ (p : IncDecOpcodes) (op b : Byte) (rest : List Byte),
    (op ∉ [0x0F#8, 0x83#8, 0xA0#8, 0xCF#8, 0xE5#8, 0xE7#8, 0xEB#8, 0xF4#8] →
      ¬ (0x70 ≤ op.toNat ∧ op.toNat ≤ 0x7F) → ¬ (0xB8 ≤ op.toNat ∧ op.toNat ≤ 0xBF) →
      ¬ (p = .x86 ∧ 0x40 ≤ op.toNat ∧ op.toNat ≤ 0x4F) →
      decode p (op :: rest) = .error .undecodable) ∧
    (b ≠ 0x05#8 → decode p (0x0F#8 :: b :: rest) = .error .undecodable) ∧
    (b.toNat < 0xC0 → decode p (0x83#8 :: b :: rest) = .error .undecodable) ∧
    (0xD0 ≤ b.toNat → b.toNat ≤ 0xDF → decode p (0x83#8 :: b :: rest) = .error .unknownAluOp)

/-- Where the memory ends inside an instruction, the decoder asks for a byte that does not exist
(30_encoding.md section 5, 40_engine_cycle.md section 2; decision D35). -/
def Obligations.CutEncodingsAreTruncated : Prop :=
  ∀ (p : IncDecOpcodes) (i : Instr) (n : Nat), i.wf p = true → n < i.length →
    decode p ((encode i).take n) = .error .truncated

/-! ## Register file (10_state.md) -/

/-- R36: a write through the register-file interface reads back masked to the register's width, and an
8-bit write keeps the other byte of its word. -/
def Obligations.RegisterWritesAreMasked : Prop :=
  ∀ (f : RegFile) (n : RegName) (v : Nat),
    (f.writeName n v).readName n = v % 2 ^ n.width ∧
    (∀ m, (match n, m with
        | .sub r, .sub q => q ≠ r
        | .sub r, .gen g => g ≠ (reg8Home r).1
        | .gen g, .sub r => g ≠ (reg8Home r).1
        | n, m => m ≠ n) → (f.writeName n v).readName m = f.readName m)

/-- R32: layout position j has its low byte at offset 2j and its high byte at offset 2j + 1. -/
def Obligations.RegisterFileLayout : Prop :=
  ∀ (f : RegFile) (j : Nat) (w : Word),
    [f.ax, f.cx, f.dx, f.bx, f.sp, f.bp, f.si, f.di, f.ip, f.flags][j]? = some w →
    (RegFile.bytes f).length = 20 ∧
    (RegFile.bytes f)[2 * j]? = some (BitVec.ofNat 8 w.toNat) ∧
    (RegFile.bytes f)[2 * j + 1]? = some (BitVec.ofNat 8 (w.toNat / 256))

/-- An identifier that names no register is fatal REG_UNKNOWN: the machine stop begins, and no register changes
(10_state.md section 1; the identifiers' form is log 20, the stop's own move log 15). -/
def Obligations.UnknownRegisterStops : Prop :=
  ∀ (s : State) (n v : Nat) (k : Nat → Outcome),
    (10 ≤ n → s.readIdent (.word n) k = .next { s with phase := .stopping .regUnknown } ∧
      s.writeIdent (.word n) v = { s with phase := .stopping .regUnknown }) ∧
    (8 ≤ n → s.readIdent (.byte n) k = .next { s with phase := .stopping .regUnknown } ∧
      s.writeIdent (.byte n) v = { s with phase := .stopping .regUnknown })

/-! ## MMU (20_memory.md) -/

/-- R90: the first segment in table order whose range holds the address decides, and it answers
`global_start + (la - local_start)` exactly when its permissions cover the mask. -/
def Obligations.TranslateFirstMatchDecides : Prop :=
  ∀ (segs : List Segment) (la mask g : Nat),
    translate segs la mask = some g ↔
      ∃ pre x post, segs = pre ++ x :: post ∧
        (∀ y ∈ pre, ¬ (y.localStart ≤ la ∧ la < y.localStart + y.size)) ∧
        x.localStart ≤ la ∧ la < x.localStart + x.size ∧
        x.perms &&& mask = mask ∧ g = x.globalStart + (la - x.localStart)

/-! ## ALU function (41_alu.md section 1) -/

/-- R172: ZF, SF and PF of all eight operations, at both widths; CMP's are those of the difference. -/
def Obligations.AluResultFlagsMeaning : Prop :=
  ∀ (w : Nat), w = 8 ∨ w = 16 → ∀ (op : AluOp) (a b : BitVec w) (fl : FlagBits),
    ResultFlagsOf (if op = .cmp then a - b else (aluApply op a b fl).result) (aluApply op a b fl).flags

/-- R173: ADD's result is the sum modulo 2^w, CF the carry out, OF that same-sign operands give a result of
the other sign, which is that the signed sum leaves the signed range. -/
def Obligations.AluAddSum : Prop :=
  ∀ (w : Nat), w = 8 ∨ w = 16 → ∀ (a b : BitVec w) (fl : FlagBits),
    let out := aluApply .add a b fl
    out.result.toNat = (a.toNat + b.toNat) % 2 ^ w ∧
    (out.flags.cf = true ↔ 2 ^ w ≤ a.toNat + b.toNat) ∧
    (out.flags.ov = true ↔ a.msb = b.msb ∧ out.result.msb ≠ a.msb) ∧
    (out.flags.ov = true ↔ OutsideSigned w (a.toInt + b.toInt))

/-- R174: SUB's result is the difference modulo 2^w, CF that a is below b unsigned, OF that operands of
different sign give a result of the other sign than a's, which is that the signed difference leaves the
signed range. -/
def Obligations.AluSubDifference : Prop :=
  ∀ (w : Nat), w = 8 ∨ w = 16 → ∀ (a b : BitVec w) (fl : FlagBits),
    let out := aluApply .sub a b fl
    (out.result.toNat : Int) = ((a.toNat : Int) - b.toNat) % 2 ^ w ∧
    (out.flags.cf = true ↔ a.toNat < b.toNat) ∧
    (out.flags.ov = true ↔ a.msb ≠ b.msb ∧ out.result.msb ≠ a.msb) ∧
    (out.flags.ov = true ↔ OutsideSigned w (a.toInt - b.toInt))

/-- CMP returns a and gives SUB's flags of the difference (41_alu.md section 1); its instruction writes FLAGS, with
those flags, and IP, and nothing else (41_alu.md section 2), and that FLAGS keeps its other eleven bits is
decision D39, the spec's own choice. -/
def Obligations.AluCompareKeepsOperand : Prop :=
  (∀ (w : Nat), w = 8 ∨ w = 16 → ∀ (a b : BitVec w) (fl : FlagBits),
    let out := aluApply .cmp a b fl
    out.result = a ∧ out.flags = (aluApply .sub a b fl).flags ∧
    (out.flags.cf = true ↔ a.toNat < b.toNat) ∧
    (out.flags.ov = true ↔ OutsideSigned w (a.toInt - b.toInt)) ∧
    ResultFlagsOf (a - b) out.flags) ∧
  ∀ (rm : Reg16) (imm : Byte) (s t : State), exec (.cmpImm rm imm) s = .next t →
    t = (s.setFlags t.flags).setIp t.ip ∧ SameRegs s t ∧ SameMemory s t ∧ SameReservedFlags s t ∧ OnlyRegs s t ∧
    flagBits t.flags = (aluApply .sub (s.reg rm) (imm.signExtend 16) (flagBits s.flags)).flags

/-- R176, R177, R178: OR, AND and XOR bit by bit, with CF = OF = 0. -/
def Obligations.AluLogicalOperations : Prop :=
  ∀ (w : Nat), w = 8 ∨ w = 16 → ∀ (a b : BitVec w) (fl : FlagBits),
    (∀ k, (aluApply .or a b fl).result.getLsbD k = (a.getLsbD k || b.getLsbD k)) ∧
    (∀ k, (aluApply .and a b fl).result.getLsbD k = (a.getLsbD k && b.getLsbD k)) ∧
    (∀ k, (aluApply .xor a b fl).result.getLsbD k = (a.getLsbD k ^^ b.getLsbD k)) ∧
    ∀ op, op = .or ∨ op = .and ∨ op = .xor →
      (aluApply op a b fl).flags.cf = false ∧ (aluApply op a b fl).flags.ov = false ∧
      ResultFlagsOf (aluApply op a b fl).result (aluApply op a b fl).flags

/-- R179, R180: INC and DEC keep the incoming CF, set OF on signed wraparound only, and do not use b. -/
def Obligations.AluIncDecKeepCarry : Prop :=
  ∀ (w : Nat), w = 8 ∨ w = 16 → ∀ (a b : BitVec w) (fl : FlagBits),
    (aluApply .inc a b fl).result.toNat = (a.toNat + 1) % 2 ^ w ∧
    ((aluApply .dec a b fl).result.toNat : Int) = ((a.toNat : Int) - 1) % 2 ^ w ∧
    ((aluApply .inc a b fl).flags.ov = true ↔ OutsideSigned w (a.toInt + 1)) ∧
    ((aluApply .dec a b fl).flags.ov = true ↔ OutsideSigned w (a.toInt - 1)) ∧
    ((aluApply .inc a b fl).flags.ov = true ↔ a.toNat = 2 ^ (w - 1) - 1) ∧
    ((aluApply .dec a b fl).flags.ov = true ↔ a.toNat = 2 ^ (w - 1)) ∧
    ∀ op, op = .inc ∨ op = .dec →
      (aluApply op a b fl).flags.cf = fl.cf ∧
      ResultFlagsOf (aluApply op a b fl).result (aluApply op a b fl).flags ∧
      ∀ c, (aluApply op a c fl).result = (aluApply op a b fl).result ∧ (aluApply op a c fl).flags = (aluApply op a b fl).flags

/-! ## ALU instructions (41_alu.md sections 2, 3) -/

/-- ADD, OR, AND, SUB, XOR r16, imm8 complete in every state: the ALU's result of the register and the
sign-extended immediate in the register, its flags in FLAGS, IP three bytes on (41_alu.md section 2). -/
def Obligations.AluImmediateWritesResult : Prop :=
  ∀ (rm : Reg16) (imm : Byte) (s : State) (op : AluOp) (i : Instr),
    (op, i) ∈ [(AluOp.add, Instr.addImm rm imm), (.or, .orImm rm imm), (.and, .andImm rm imm),
      (.sub, .subImm rm imm), (.xor, .xorImm rm imm)] →
    ∃ t, exec i s = .next t ∧
      t.reg rm = (aluApply op (s.reg rm) (imm.signExtend 16) (flagBits s.flags)).result ∧
      flagBits t.flags = (aluApply op (s.reg rm) (imm.signExtend 16) (flagBits s.flags)).flags ∧
      t.ip.toNat = (s.ip.toNat + 3) % 65536

/-- CMP r16, imm8 completes in every state and writes FLAGS and IP only: the five flags from the difference, the
other eleven bits kept (decision D39), IP three bytes on, no general register and no byte of memory
(41_alu.md section 2). -/
def Obligations.CompareImmediateWritesFlags : Prop :=
  ∀ (rm : Reg16) (imm : Byte) (s : State), ∃ t, exec (.cmpImm rm imm) s = .next t ∧
    t = (s.setFlags t.flags).setIp t.ip ∧ SameRegs s t ∧ SameMemory s t ∧ SameReservedFlags s t ∧ OnlyRegs s t ∧
    flagBits t.flags = (aluApply .sub (s.reg rm) (imm.signExtend 16) (flagBits s.flags)).flags ∧
    t.ip.toNat = (s.ip.toNat + 3) % 65536

/-- INC and DEC r16 complete in every state: the register one up or down modulo 2^16, CF kept, the other
four flags of the result, IP one byte on (41_alu.md section 3; that the instructions exist is the
parameter INCDEC_OPCODES). -/
def Obligations.IncDecWriteResult : Prop :=
  ∀ (r : Reg16) (s : State),
    (∃ t, exec (.incReg r) s = .next t ∧ (t.reg r).toNat = ((s.reg r).toNat + 1) % 65536 ∧
      t.flags.getLsbD 0 = s.flags.getLsbD 0 ∧ ResultFlagsOf (t.reg r) (flagBits t.flags) ∧
      (t.flags.getLsbD 11 = true ↔ (s.reg r).toNat = 0x7FFF) ∧ t.ip.toNat = (s.ip.toNat + 1) % 65536) ∧
    (∃ t, exec (.decReg r) s = .next t ∧ (t.reg r).toNat = ((s.reg r).toNat + 65535) % 65536 ∧
      t.flags.getLsbD 0 = s.flags.getLsbD 0 ∧ ResultFlagsOf (t.reg r) (flagBits t.flags) ∧
      (t.flags.getLsbD 11 = true ↔ (s.reg r).toNat = 0x8000) ∧ t.ip.toNat = (s.ip.toNat + 1) % 65536)

/-- The eight ALU instructions change the destination register, the five flags and IP, and nothing else:
not the other eleven FLAGS bits (decision D39), not one byte of memory. -/
def Obligations.AluInstructionsFrame : Prop :=
  ∀ (r : Reg16) (imm : Byte) (s t : State) (i : Instr),
    i ∈ [Instr.addImm r imm, .orImm r imm, .andImm r imm, .subImm r imm, .xorImm r imm, .cmpImm r imm,
      .incReg r, .decReg r] →
    exec i s = .next t → SameRegsBut r s t ∧ SameReservedFlags s t ∧ SameMemory s t ∧ OnlyRegs s t

/-! ## Jumps (42_control_transfer.md) -/

/-- The sixteen conditional jumps complete in every state and change IP alone: past the two bytes, and by the
displacement as well where the condition holds (42_control_transfer.md section 1; the formulas of the
conditions are decision D4). -/
def Obligations.ConditionalJumpsTestFlags : Prop :=
  JumpsWhen .jo (fun f => f.getLsbD 11 = true) ∧ JumpsWhen .jno (fun f => f.getLsbD 11 = false) ∧
  JumpsWhen .jb (fun f => f.getLsbD 0 = true) ∧ JumpsWhen .jnb (fun f => f.getLsbD 0 = false) ∧
  JumpsWhen .jz (fun f => f.getLsbD 6 = true) ∧ JumpsWhen .jnz (fun f => f.getLsbD 6 = false) ∧
  JumpsWhen .js (fun f => f.getLsbD 7 = true) ∧ JumpsWhen .jns (fun f => f.getLsbD 7 = false) ∧
  JumpsWhen .jp (fun f => f.getLsbD 2 = true) ∧ JumpsWhen .jnp (fun f => f.getLsbD 2 = false) ∧
  JumpsWhen .jbe (fun f => f.getLsbD 0 = true ∨ f.getLsbD 6 = true) ∧
  JumpsWhen .ja (fun f => f.getLsbD 0 = false ∧ f.getLsbD 6 = false) ∧
  JumpsWhen .jl (fun f => f.getLsbD 7 ≠ f.getLsbD 11) ∧
  JumpsWhen .jge (fun f => f.getLsbD 7 = f.getLsbD 11) ∧
  JumpsWhen .jle (fun f => f.getLsbD 6 = true ∨ f.getLsbD 7 ≠ f.getLsbD 11) ∧
  JumpsWhen .jg (fun f => f.getLsbD 6 = false ∧ f.getLsbD 7 = f.getLsbD 11)

/-- After CMP the unsigned and signed jumps test the operands' order: JB unsigned below, JL signed less,
JZ equal (42_control_transfer.md sections 1, 2 with 41_alu.md section 1). -/
def Obligations.JumpsAfterCompareTestOrder : Prop :=
  ∀ (rm : Reg16) (imm : Byte) (s t : State), exec (.cmpImm rm imm) s = .next t →
    (Cond.holds (flagBits t.flags) .b = true ↔ (s.reg rm).toNat < (imm.signExtend 16).toNat) ∧
    (Cond.holds (flagBits t.flags) .l = true ↔ (s.reg rm).toInt < imm.toInt) ∧
    (Cond.holds (flagBits t.flags) .z = true ↔ s.reg rm = imm.signExtend 16) ∧
    (Cond.holds (flagBits t.flags) .be = true ↔ (s.reg rm).toNat ≤ (imm.signExtend 16).toNat) ∧
    (Cond.holds (flagBits t.flags) .le = true ↔ (s.reg rm).toInt ≤ imm.toInt)

/-- R228: JMP rel8 is `11101011 dddddddd`, two bytes. It completes in every state: IP is two bytes on, plus the
displacement, modulo 2^16, and nothing else changes. -/
def Obligations.JumpAlwaysTaken : Prop :=
  ∀ (rel : Byte), encode (.jmp rel) = [0xEB#8, rel] ∧ (Instr.jmp rel).length = 2 ∧
    ∀ (s : State), ∃ t, exec (.jmp rel) s = .next t ∧
      (t.ip.toNat : Int) = ((s.ip.toNat : Int) + 2 + rel.toInt) % 65536 ∧ t = s.setIp t.ip

/-- The seventeen jumps write no register but IP, no flag and no memory (42_control_transfer.md section 1). -/
def Obligations.JumpsFrame : Prop :=
  ∀ (rel : Byte) (s t : State) (i : Instr),
    i ∈ [Instr.jo rel, .jno rel, .jb rel, .jnb rel, .jz rel, .jnz rel, .jbe rel, .ja rel, .js rel, .jns rel,
      .jp rel, .jnp rel, .jl rel, .jge rel, .jle rel, .jg rel, .jmp rel] →
    exec i s = .next t → SameRegs s t ∧ t.flags = s.flags ∧ SameMemory s t ∧ OnlyRegs s t

/-! ## Data movement (43_data_movement.md) -/

/-- MOV r16, imm16 completes in every state: the whole register is the immediate, IP is three bytes on, and
nothing else changes (43_data_movement.md section 1). -/
def Obligations.MoveImmediateLoadsRegister : Prop :=
  ∀ (r : Reg16) (imm : Word) (s : State), ∃ t, exec (.movImm r imm) s = .next t ∧
    t.reg r = imm ∧ SameRegsBut r s t ∧ t.flags = s.flags ∧ t.ip.toNat = (s.ip.toNat + 3) % 65536 ∧
    SameMemory s t ∧ OnlyRegs s t

/-- MOV AL, [moffs16] completes where the address translates with READ to an address inside the memory: AL
is the byte there, AH and everything else keep their value (43_data_movement.md section 2). -/
def Obligations.MoveByteLoadsLowByte : Prop :=
  ∀ (a : Word) (s : State) (g : Nat), translate s.ctx.segs a.toNat 4 = some g → g < s.cfg.memSize →
    ∃ t, exec (.movAl a) s = .next t ∧
      (t.reg .ax).toNat = (s.reg .ax).toNat / 256 * 256 + (s.mem.read g).toNat ∧
      SameRegsBut .ax s t ∧ t.flags = s.flags ∧ t.ip.toNat = (s.ip.toNat + 3) % 65536 ∧
      SameMemory s t ∧ OnlyRegs s t

/-- MOV AL, [moffs16] ends the invocation with MEM_FAULT where the translation fails, with no trap call
(decision D15), and begins the machine stop BOUNDS where the address is past the memory (decision D13; the
stop's own move is log 15); no register changes (43_data_movement.md section 2). -/
def Obligations.MoveByteFaults : Prop :=
  ∀ (a : Word) (s : State),
    (translate s.ctx.segs a.toNat 4 = none →
      exec (.movAl a) s = .next { s with phase := .returned .memFault }) ∧
    (∀ g, translate s.ctx.segs a.toNat 4 = some g → s.cfg.memSize ≤ g →
      exec (.movAl a) s = .next { s with phase := .stopping .bounds })

/-! ## System instructions (44_system.md) -/

/-- SYSCALL completes in every state, at every ring: it presents AX, BX, CX, DX, SI, DI, the step is
suspended, and nothing else changes (44_system.md section 1). -/
def Obligations.SyscallPresentsRegisters : Prop :=
  ∀ (s : State), exec .syscall s = .next { s with
    phase := .suspended .syscall ⟨s.reg .ax, s.reg .bx, s.reg .cx, s.reg .dx, s.reg .si, s.reg .di⟩ }

/-- The host's answer to a SYSCALL, listed or free, after its own acts (the answer's form is log 10, the acts'
log 19, the move's log 9). Resume: the six registers are the answer's (in its order, decision D37), IP moves
past both opcode bytes, SP, BP and FLAGS keep their value, and the quantum goes on with the same step counter
(decision D17). Abort: the invocation ends with SYSCALL_ABORT of the integer, and no register, IP included,
changes (44_system.md section 1). -/
def Obligations.SyscallAnswerResumesOrAborts : Prop :=
  ∀ (s u : State) (v : Vec6), s.machine = .running → s.phase = .suspended .syscall v →
    s.takeAnswer.hostEffects s.hostAnswer.effects = some u →
    ∃ t, step s = .next t ∧ t.answers = s.answers.tail ∧ t.draws = s.draws + 1 ∧ t.mem = u.mem ∧
      match s.hostAnswer.reply with
      | .resume w => HoldsVector t w ∧ t.ip.toNat = (s.ip.toNat + 2) % 65536 ∧
          t.reg .sp = s.reg .sp ∧ t.reg .bp = s.reg .bp ∧ t.flags = s.flags ∧
          t.phase = .running ∧ t.ctx.steps = s.ctx.steps
      | .abort n => t.phase = .returned (.syscallAbort n) ∧ t.ctx = s.ctx

/-- IN at ring 0 from a registered driver completes: AX is the byte the driver returns, listed or free, zero
extended (decision D10), or, for the empty sentinel, the free value of this draw (decision D11, log 12); the
driver's listed answer is used up (log 11), IP is two bytes on, and no other register, flag, driver or byte of
memory changes (44_system.md section 2). -/
def Obligations.PortReadWritesAx : Prop :=
  ∀ (p : Byte) (s : State) (d : Driver), s.ctx.ring = 0#8 → s.driverAt p = some d →
    ∃ t, exec (.inAx p) s = .next t ∧
      (∀ b, d.readAnswer s.draws = some b → (t.reg .ax).toNat = b.toNat) ∧
      (d.readAnswer s.draws = none → t.reg .ax = Config.freePortEmptyValue s.draws) ∧
      t.driverAt p = some { d with reads := d.reads.tail } ∧ (∀ q, q ≠ p → t.driverAt q = s.driverAt q) ∧
      SameRegsBut .ax s t ∧ t.flags = s.flags ∧ t.ip.toNat = (s.ip.toNat + 2) % 65536 ∧ SameMemory s t ∧
      t = { s with drivers := t.drivers, draws := s.draws + 1, ctx := { s.ctx with regs := t.ctx.regs } }

/-- OUT at ring 0 to a registered driver completes: the driver receives the low byte of AX (decision D10;
how it holds what it received is log 11), IP is two bytes on, and no register, flag, other driver or byte of
memory changes (44_system.md section 2). -/
def Obligations.PortWriteSendsLowByte : Prop :=
  ∀ (p : Byte) (s : State) (d : Driver), s.ctx.ring = 0#8 → s.driverAt p = some d →
    ∃ t, exec (.outAx p) s = .next t ∧
      t.driverAt p = some { d with written := d.written ++ [BitVec.ofNat 8 (s.reg .ax).toNat] } ∧
      (∀ q, q ≠ p → t.driverAt q = s.driverAt q) ∧
      SameRegs s t ∧ t.flags = s.flags ∧ t.ip.toNat = (s.ip.toNat + 2) % 65536 ∧ SameMemory s t ∧
      t = { s with drivers := t.drivers, ctx := { s.ctx with regs := t.ctx.regs } }

/-- IN and OUT at ring 0 to a port with no driver begin the machine stop UNMAPPED_PORT (decision D12; the stop's
own move is log 15). -/
def Obligations.UnmappedPortStops : Prop :=
  ∀ (p : Byte) (s : State) (i : Instr), i ∈ [Instr.inAx p, .outAx p] → s.ctx.ring = 0#8 →
    (∀ d ∈ s.drivers, d.port ≠ p) →
    exec i s = .next { s with phase := .stopping .unmappedPort }

/-- IRET at ring 0 completes: IP is one byte on, the invocation ends with INT_DONE, and nothing else changes
(decision D19: nothing is restored). -/
def Obligations.InterruptReturnEndsQuantum : Prop :=
  ∀ (s : State), s.ctx.ring = 0#8 → ∃ t, exec .iret s = .next t ∧ t.phase = .returned .intDone ∧
    t.ip.toNat = (s.ip.toNat + 1) % 65536 ∧ SameRegs s t ∧ t.flags = s.flags ∧ SameMemory s t ∧
    t = { s with phase := t.phase, ctx := { s.ctx with regs := t.ctx.regs } }

/-- HLT is `11110100`, one byte. At ring 0 it stops the whole machine: after the writeback (decision D30), which
is a move of its own (log 15), the status is FATAL with the dump of the registers, IP not advanced, and the
trace, and nothing resumes it (the model's fault is log 13). At another ring it is PRIV_FAULT
(44_system.md section 3). -/
def Obligations.HaltStopsMachine : Prop :=
  encode .hlt = [0xF4#8] ∧ Instr.hlt.length = 1 ∧
  ∀ (s : State),
    (s.ctx.ring = 0#8 → exec .hlt s = .next { s with phase := .stopping .halt } ∧
      (s.machine = .running → s.ctx.pcb < s.pcbCount → s.cfg.pcbBase + 28 * s.pcbCount ≤ s.cfg.memSize →
        ∃ t, step { s with phase := .stopping .halt } = .next t ∧
          t.machine = .fatal .halt { regs := s.ctx.regs, trace := s.ctx.trace } ∧
          step t = .fault .machineStopped)) ∧
    (s.ctx.ring ≠ 0#8 → exec .hlt s = .next { s with phase := .returned .privFault })

/-- The privileged instructions at a non-zero ring end the invocation with PRIV_FAULT and touch no register,
driver or memory (44_system.md sections 2, 3; the check's place before EXECUTE is decision D33). -/
def Obligations.PrivilegedAtUserRingFaults : Prop :=
  ∀ (p : Byte) (s : State) (i : Instr), i ∈ [Instr.inAx p, .outAx p, .iret, .hlt] → s.ctx.ring ≠ 0#8 →
    exec i s = .next { s with phase := .returned .privFault }

/-! ## Whole-machine rules over all instructions -/

/-- Every instruction has a next state in every state: none faults and none is refused (40_engine_cycle.md
section 2; that an engine signal and the start of a machine stop are next states is log 13). -/
def Obligations.EveryInstructionAnswers : Prop :=
  ∀ (i : Instr) (s : State), ∃ t, exec i s = .next t

/-- No instruction writes memory, a PCB, a segment list, the ring, the PID, the machine status or the scheduler's
position (10_state.md sections 4, 7 and 20_memory.md section 3; a machine stop's writeback is the scheduler's
move after it, log 15). -/
def Obligations.NoInstructionWritesSystemState : Prop :=
  ∀ (i : Instr) (s t : State), exec i s = .next t →
    SameMemory s t ∧ t.pcbCount = s.pcbCount ∧ t.segTable = s.segTable ∧ t.cfg = s.cfg ∧ t.waiting = s.waiting ∧
    t.sched = s.sched ∧ t.machine = s.machine ∧ t.answers = s.answers ∧
    t.ctx = { s.ctx with regs := t.ctx.regs }

/-- FLAGS is written by the ALU instructions only, and no instruction writes bit 1 or an unnamed bit
(10_state.md section 2; decision D3). -/
def Obligations.FlagsWrittenByAluOnly : Prop :=
  ∀ (i : Instr) (s t : State), exec i s = .next t →
    SameReservedFlags s t ∧ (writesFlags i = false → t.flags = s.flags)

/-- At a non-zero ring no instruction touches a device or halts the machine, and the only machine stop one begins
is BOUNDS (60_exceptions.md section 5; BOUNDS is decision D13, the stop's own move log 15). -/
def Obligations.UserRingCannotReachDevices : Prop :=
  ∀ (i : Instr) (s t : State), s.ctx.ring ≠ 0#8 → exec i s = .next t →
    t.drivers = s.drivers ∧ t.draws = s.draws ∧ t.machine = s.machine ∧
    ∀ r, t.phase = .stopping r → s.phase = .stopping r ∨ r = .bounds

/-! ## The engine's loop (40_engine_cycle.md) -/

/-- A step runs the decoded instruction: where the budget is not spent, IP translates with EXECUTE to `g` and
the window at `g` decodes to `i`, the step is `exec i` after one step has been counted and the opcode
traced (trace: log 16). -/
def Obligations.StepRunsDecodedInstruction : Prop :=
  ∀ (s : State) (g : Nat) (i : Instr), s.machine = .running → s.phase = .running → s.ctx.steps < s.cfg.quantum →
    translate s.ctx.segs s.ip.toNat 1 = some g → decode s.cfg.incdec (s.window g) = .ok i →
    step s = exec i ({ s with ctx := { s.ctx with steps := s.ctx.steps + 1 } }.noteExecuted i)

/-- A step runs the instruction whose encoding lies in memory where IP translates to, though the memory may
end right after it (40_engine_cycle.md section 2; decision D35; what the trace records is log 16). -/
def Obligations.StepRunsEncodedInstruction : Prop :=
  ∀ (s : State) (g : Nat) (i : Instr), s.machine = .running → s.phase = .running → s.ctx.steps < s.cfg.quantum →
    translate s.ctx.segs s.ip.toNat 1 = some g → i.wf s.cfg.incdec = true → g + i.length ≤ s.cfg.memSize →
    (∀ k, k < i.length → (encode i)[k]? = some (s.mem.read (g + k))) →
    step s = exec i ({ s with ctx := { s.ctx with steps := s.ctx.steps + 1 } }.noteExecuted i)

/-- The fetch fault: at a non-zero ring a trap call with six zeros, whose answer ends the invocation with
MEM_FAULT whatever it is, at ring 0 MEM_FAULT at once; registers, IP included, keep their value
(40_engine_cycle.md section 2; decisions D14, D16; the cut into moves is log 9). -/
def Obligations.FetchFaultEndsInMemFault : Prop :=
  (∀ (s : State), s.machine = .running → s.phase = .running → s.ctx.steps < s.cfg.quantum →
    translate s.ctx.segs s.ip.toNat 1 = none →
    ∃ t, step s = .next t ∧ t.ctx.regs = s.ctx.regs ∧ SameMemory s t ∧
      t.phase = if s.ctx.ring = 0#8 then .returned .memFault else .suspended .fetchFault ⟨0, 0, 0, 0, 0, 0⟩) ∧
  ∀ (s t : State) (v : Vec6), s.machine = .running → s.phase = .suspended .fetchFault v → step s = .next t →
    t.phase = .returned .memFault ∧ t.ctx = s.ctx ∧ t.machine = .running

/-- Bytes that are no instruction stop the machine, at every ring, with the reason the decoder gives: the fetch's
own move changes no register and no byte of memory, and after the writeback of the running process's block
(decision D30; a move of its own, log 15) the status is FATAL with the dump of the registers, IP not advanced
(30_encoding.md section 6, 40_engine_cycle.md section 2; the status as a next state is log 13). -/
def Obligations.UndecodableBytesStopMachine : Prop :=
  ∀ (s : State) (g : Nat) (r : Reject), s.machine = .running → s.phase = .running → s.ctx.steps < s.cfg.quantum →
    translate s.ctx.segs s.ip.toNat 1 = some g → decode s.cfg.incdec (s.window g) = .error r →
    ∃ t f, step s = .next t ∧
      f = (match r with | .undecodable => FatalReason.decode | .unknownAluOp => .aluOp | .truncated => .bounds) ∧
      t.phase = .stopping f ∧ t.ctx.regs = s.ctx.regs ∧ SameMemory s t ∧
      (s.ctx.pcb < s.pcbCount → s.cfg.pcbBase + 28 * s.pcbCount ≤ s.cfg.memSize →
        ∃ u, step t = .next u ∧ u.machine = .fatal f ⟨s.ctx.regs, s.ctx.trace⟩)

/-- When the step budget is spent the invocation ends with QUANTUM_DONE, and nothing is fetched or executed
(40_engine_cycle.md section 1; the test's place before the fetch is decision D41, the move log 9). -/
def Obligations.SpentBudgetEndsQuantum : Prop :=
  ∀ (s : State), s.machine = .running → s.phase = .running → s.cfg.quantum ≤ s.ctx.steps →
    step s = .next { s with phase := .returned .quantumDone }

/-! ## Scheduler and devices (60_exceptions.md) -/

/-- The scheduler loads a runnable member: ring, PID, register file and status word from its block's bytes,
the segment list of its PID, step counter 0 and an empty trace (60_exceptions.md section 6, 10_state.md
sections 5, 8; the status word in the load is log 21, a word that is no code runnable log 4, the move log 9). -/
def Obligations.SchedulerLoadsContext : Prop :=
  ∀ (s : State) (n : Nat), s.machine = .running → s.phase = .schedule → s.sched.members[s.sched.next]? = some n →
    n < s.pcbCount → s.cfg.pcbBase + 28 * s.pcbCount ≤ s.cfg.memSize → s.runnable n = true →
    ∃ t, step s = .next t ∧ t.phase = .running ∧ t.ctx.pcb = n ∧ t.ctx.steps = 0 ∧ t.ctx.trace = [] ∧
      t.ctx.ring = s.mem.read (s.cfg.pcbBase + 28 * n + 3) ∧
      t.ctx.pid = s.mem.readWord (s.cfg.pcbBase + 28 * n + 4) ∧
      t.ctx.segs = (s.segTable.lookup t.ctx.pid).getD [] ∧
      t.ctx.statusWord = s.mem.readWord (s.cfg.pcbBase + 28 * n) ∧
      (∀ j w, (RegFile.words t.ctx.regs)[j]? = some w → w = s.mem.readWord (s.cfg.pcbBase + 28 * n + 8 + 2 * j)) ∧
      t.sched = ⟨s.sched.members, s.sched.next + 1, true⟩ ∧ SameMemory s t

/-- A member that is not runnable is skipped and nothing else happens; at the end of a pass the next one
begins with the PCBs then in the table, and a poll comes first where no member ran (60_exceptions.md section 6;
decisions D21, D27, D28; words that are no status code are log 4, the membership made before the idle poll is
log 24, the move log 9). -/
def Obligations.SchedulerSkipsAndBeginsPass : Prop :=
  ∀ (s : State), s.machine = .running → s.phase = .schedule →
    (∀ n, s.sched.members[s.sched.next]? = some n → n < s.pcbCount →
      s.cfg.pcbBase + 28 * s.pcbCount ≤ s.cfg.memSize → s.runnable n = false →
      step s = .next { s with sched := { s.sched with next := s.sched.next + 1 } }) ∧
    (s.sched.members.length ≤ s.sched.next →
      step s = .next { s with
        sched := ⟨List.range s.pcbCount, 0, false⟩
        phase := if s.sched.ran then .schedule else .polling })

/-- What the status word of the block is after each signal: kept for QUANTUM_DONE and for INT_DONE at ring
0, CPU_FAULT(MEM) and CPU_FAULT(PRIV) at a non-zero ring, and for SYSCALL_ABORT(s) EXIT(s) or kept as
`on_syscall_abort` says (60_exceptions.md section 6; decisions D18, D19, D22, D44; a kept word is log 21, the words of EXIT are log 3, the move log 9). -/
def Obligations.SignalDecidesStatusWord : Prop :=
  ∀ (s : State) (sig : Signal) (w : Word), s.machine = .running → s.phase = .returned sig →
    s.ctx.pcb < s.pcbCount → s.cfg.pcbBase + 28 * s.pcbCount ≤ s.cfg.memSize → s.mem.wf s.cfg.memSize = true →
    (match sig with
      | .quantumDone => w = s.ctx.statusWord
      | .intDone => s.ctx.ring = 0#8 ∧ w = s.ctx.statusWord
      | .memFault => s.ctx.ring ≠ 0#8 ∧ w = s.cfg.statusCode.faultMem
      | .privFault => s.ctx.ring ≠ 0#8 ∧ w = s.cfg.statusCode.faultPriv
      | .syscallAbort n =>
        w = if s.cfg.onSyscallAbort = .keepStatus then s.ctx.statusWord else statusWordOf s.cfg.statusCode (.exit n)) →
    ∃ t, step s = .next t ∧ t.phase = .polling ∧ t.machine = .running ∧ t.pcbStatus s.ctx.pcb = w

/-- The end of a quantum, and a machine stop that ends one (decision D30, log 15), write the register file to
B + 8 … B + 27 little-endian, and no byte outside these and the status word: not the module id, ring, PID or
parent PID (60_exceptions.md section 6). The move that finds KERNEL_FAULT is the exception: it writes nothing
and the machine stop it begins does. -/
def Obligations.QuantumEndWritesRegistersBack : Prop :=
  ∀ (s t : State), s.machine = .running →
    ((∃ sig, s.phase = .returned sig ∧ ¬ (sig = .memFault ∧ s.ctx.ring = 0#8)) ∨ ∃ r, s.phase = .stopping r) →
    s.mem.wf s.cfg.memSize = true → step s = .next t →
    (∀ j w, (RegFile.words s.ctx.regs)[j]? = some w →
      t.mem.readWord (s.cfg.pcbBase + 28 * s.ctx.pcb + 8 + 2 * j) = w) ∧
    (∀ a, (a < s.cfg.pcbBase + 28 * s.ctx.pcb ∨ s.cfg.pcbBase + 28 * s.ctx.pcb + 2 ≤ a) →
      (a < s.cfg.pcbBase + 28 * s.ctx.pcb + 8 ∨ s.cfg.pcbBase + 28 * s.ctx.pcb + 28 ≤ a) →
      t.mem.read a = s.mem.read a)

/-- MEM_FAULT of a ring-0 process is the machine stop KERNEL_FAULT; and every machine stop that ends an
invocation is made after the writeback of the register file, the status kept, and has the register file and
trace as its dump (60_exceptions.md sections 2, 6; decisions D30, D49; the stop's own move is log 15, the kept
word log 21, the status as a next state log 13). -/
def Obligations.MachineStopsWriteBackFirst : Prop :=
  ∀ (s : State), s.machine = .running → s.ctx.pcb < s.pcbCount →
    s.cfg.pcbBase + 28 * s.pcbCount ≤ s.cfg.memSize → s.mem.wf s.cfg.memSize = true →
    (s.phase = .returned .memFault → s.ctx.ring = 0#8 → step s = .next { s with phase := .stopping .kernelFault }) ∧
    ∀ r, s.phase = .stopping r →
      ∃ t, step s = .next t ∧ t.machine = .fatal r ⟨s.ctx.regs, s.ctx.trace⟩ ∧
        t.pcbRegs s.ctx.pcb = s.ctx.regs ∧ t.pcbStatus s.ctx.pcb = s.ctx.statusWord

/-- A process the scheduler has just given a fault status (at a non-zero ring) or an exit status (at any ring) is
not runnable: its word is terminal (60_exceptions.md section 6; decisions D18, D21; the code book is log 3). -/
def Obligations.FaultedProcessIsNotRunnable : Prop :=
  ∀ (s t : State) (sig : Signal), s.machine = .running → s.phase = .returned sig →
    (((sig = .memFault ∨ sig = .privFault) ∧ s.ctx.ring ≠ 0#8) ∨
      ((∃ n, sig = .syscallAbort n) ∧ s.cfg.onSyscallAbort = .exitWithStatus)) →
    s.mem.wf s.cfg.memSize = true → step s = .next t → t.runnable s.ctx.pcb = false

/-- Devices answer the poll in registry order, each with its listed or its free status of the draw: where all
return 0 the poll ends well, every one clocked once; where one returns another status it decides and the
devices after it are left alone (60_exceptions.md section 7; decision D24; a driver's listed statuses, used up
as it is clocked, are log 11). -/
def Obligations.PollFirstNonZeroDecides : Prop :=
  ∀ (n : Nat) (pre post : List Driver) (d : Driver),
    (∀ (k : Nat) (x : Driver), pre[k]? = some x → x.clockStatus (n + k) = 0) →
    (clockDrivers n pre).1 = .allOk ∧
    (clockDrivers n pre).2.1 = pre.map (fun x => { x with clocks := x.clocks.tail }) ∧
    (clockDrivers n pre).2.2 = n + pre.length ∧
    ∀ c, d.clockStatus (n + pre.length) = c → c ≠ 0 →
      (clockDrivers n (pre ++ d :: post)).1 =
        (if c = -1 then PollEnd.fatal .deviceFatal else if c = 2 then .shutdown else .fatal .deviceStatus) ∧
      (clockDrivers n (pre ++ d :: post)).2.1 =
        pre.map (fun x => { x with clocks := x.clocks.tail }) ++ { d with clocks := d.clocks.tail } :: post ∧
      (clockDrivers n (pre ++ d :: post)).2.2 = n + pre.length + 1

/-- What a poll does to the machine: the registry is left as the clocked devices leave it (PollFirstNonZeroDecides;
log 11); all well sets `waiting` to whether a user process is runnable and returns to the scheduler, a fatal
device stops the machine with its dump, a shutdown request makes the trap call with six zeros
(60_exceptions.md section 7; decisions D25, D26; the dump's registers are log 17, the status as a next state
log 13, the move log 9). -/
def Obligations.PollOutcomes : Prop :=
  ∀ (s : State), s.machine = .running → s.phase = .polling → s.cfg.pcbBase + 28 * s.pcbCount ≤ s.cfg.memSize →
    ∃ t, step s = .next t ∧ t.drivers = (clockDrivers s.draws s.drivers).2.1 ∧
      t.draws = (clockDrivers s.draws s.drivers).2.2 ∧ t.ctx = s.ctx ∧ t.sched = s.sched ∧ SameMemory s t ∧
      match (clockDrivers s.draws s.drivers).1 with
      | .allOk => t.machine = .running ∧ t.phase = .schedule ∧
          (t.waiting = true ↔ ∃ n, n < s.pcbCount ∧ s.pcbRing n ≠ 0#8 ∧ s.runnable n = true)
      | .fatal r => t.machine = .fatal r ⟨s.ctx.regs, s.ctx.trace⟩
      | .shutdown => t.machine = .running ∧ t.phase = .suspended .shutdown ⟨0, 0, 0, 0, 0, 0⟩

/-- The shutdown request's trap call ends the machine whatever the host answers, and a stopped machine takes
no step (60_exceptions.md section 2; decisions D25, D46; the model's fault is log 13, the move log 9). -/
def Obligations.ShutdownEndsMachine : Prop :=
  (∀ (s t : State) (v : Vec6), s.machine = .running → s.phase = .suspended .shutdown v → step s = .next t →
    t.machine = .shutdown) ∧
  ∀ (s : State), s.machine ≠ .running → step s = .fault .machineStopped

/-! ## The machine as a whole -/

/-- While the host does not act, the PCB count and the segment lists never change, and only the end of a quantum
writes memory, or a machine stop that ends one (decision D30, log 15), and then only the running process's
status word and saved registers; so a process whose turn it is not keeps its whole block and its being
runnable (10_state.md section 7, 20_memory.md section 1, 60_exceptions.md section 6). -/
def Obligations.OnlyRunningBlockIsWritten : Prop :=
  ∀ (s t : State), (∀ k v, s.phase ≠ .suspended k v) → step s = .next t →
    t.segTable = s.segTable ∧ t.pcbCount = s.pcbCount ∧
    ((∀ sig, s.phase ≠ .returned sig) → (∀ r, s.phase ≠ .stopping r) → SameMemory s t) ∧
    (∀ a, (a < s.cfg.pcbBase + 28 * s.ctx.pcb ∨ s.cfg.pcbBase + 28 * s.ctx.pcb + 2 ≤ a) →
       (a < s.cfg.pcbBase + 28 * s.ctx.pcb + 8 ∨ s.cfg.pcbBase + 28 * s.ctx.pcb + 28 ≤ a) →
       t.mem.read a = s.mem.read a) ∧
    (∀ n, n ≠ s.ctx.pcb → (∀ k, k < 28 →
       t.mem.read (s.cfg.pcbBase + 28 * n + k) = s.mem.read (s.cfg.pcbBase + 28 * n + k)) ∧
       t.runnable n = s.runnable n)

/-- During a quantum the ring, the segment list, the PID and the PCB of the running process never change,
not even while the host acts: only the scheduler's load replaces them (60_exceptions.md section 5;
decisions D30, D42). -/
def Obligations.ContextFixedDuringQuantum : Prop :=
  ∀ (s t : State), s.phase ≠ .schedule → step s = .next t →
    t.ctx.ring = s.ctx.ring ∧ t.ctx.segs = s.ctx.segs ∧ t.ctx.pid = s.ctx.pid ∧ t.ctx.pcb = s.ctx.pcb

/-- The implementation's parameters never change (00_scope.md section 3; log 1). -/
def Obligations.ParametersNeverChange : Prop :=
  ∀ (s t : State), step s = .next t → t.cfg = s.cfg

/-- The invariant holds at reset, which is the model's empty launch with its chosen parameters, memory and
registers (10_state.md section 8; log 1, 5, 6, 7). -/
def Obligations.ResetSatisfiesInvariant : Prop := Inv State.reset

/-- Every step keeps the invariant: canonical memory inside MEM_SIZE, a PCB table inside the memory, a pass of
existing PCBs, a step counter within the budget, and signals and traps that fit the ring (20_memory.md
section 1, 40_engine_cycle.md section 1, 60_exceptions.md sections 4, 6, 70_reset_and_hazards.md section 2; the
canonical form is log 5, the phases are log 9, what the trace keeps is log 16, the table's fit log 18). -/
def Obligations.StepKeepsInvariant : Prop :=
  ∀ (s t : State), Inv s → step s = .next t → Inv t

/-- From a state that meets the invariant, a running machine always takes a step, unless the host, on its
move, appends a PCB that does not fit (60_exceptions.md section 2, 70_reset_and_hazards.md section 2; log 18). -/
def Obligations.InvariantMeansProgress : Prop :=
  ∀ (s : State), Inv s → s.machine = .running →
    (∃ t, step s = .next t) ∨
    ∃ k v, s.phase = .suspended k v ∧ step s = .refused .pcbTableOutsideMemory

/-- The state at reset: RUNNING, waiting 0, first pass at PCB index 0, step counter 0, not suspended, trace
empty (decisions D26, D46), and INC and DEC not decoded (the default of INCDEC_OPCODES); every other
value is the model's choice (log 1, 5, 6, 7). -/
def Obligations.ResetValues : Prop :=
  State.reset.machine = .running ∧ State.reset.waiting = false ∧
  State.reset.sched = ⟨List.range State.reset.pcbCount, 0, false⟩ ∧ State.reset.phase = .schedule ∧
  State.reset.ctx.steps = 0 ∧ State.reset.ctx.trace = [] ∧ State.reset.cfg.incdec = .none

/-- The loader's blocks read back: at the start of the first pass of a well-formed launch, PCB n's status
word, ring, PID and register file are those of its block (70_reset_and_hazards.md sections 1, 2;
10_state.md section 5; a well-formed launch's code book and registry are log 3 and log 22). -/
def Obligations.LaunchedBlocksReadBack : Prop :=
  ∀ (l : Launch) (n : Nat) (b : PcbBlock), l.wf = true → l.pcbs[n]? = some b →
    (State.launch l).pcbStatus n = b.status ∧ (State.launch l).pcbModuleId n = b.moduleId ∧
    (State.launch l).pcbRing n = b.ring ∧ (State.launch l).pcbPid n = b.pid ∧
    (State.launch l).pcbParent n = b.parent ∧ (State.launch l).pcbRegs n = b.regs ∧
    Inv (State.launch l)
end

