-- ==== Sys2Proof/Laws/State.lean ====
section
/-! SUPPORT. One lemma per field per update of the state, each true by definition. -/

namespace Sys2Proof.Machine

@[simp] theorem State.setRegs_cfg (s : State) (f : RegFile) : (s.setRegs f).cfg = s.cfg := rfl
@[simp] theorem State.setRegs_mem (s : State) (f : RegFile) : (s.setRegs f).mem = s.mem := rfl
@[simp] theorem State.setRegs_pcbCount (s : State) (f : RegFile) : (s.setRegs f).pcbCount = s.pcbCount := rfl
@[simp] theorem State.setRegs_segTable (s : State) (f : RegFile) : (s.setRegs f).segTable = s.segTable := rfl
@[simp] theorem State.setRegs_drivers (s : State) (f : RegFile) : (s.setRegs f).drivers = s.drivers := rfl
@[simp] theorem State.setRegs_waiting (s : State) (f : RegFile) : (s.setRegs f).waiting = s.waiting := rfl
@[simp] theorem State.setRegs_machine (s : State) (f : RegFile) : (s.setRegs f).machine = s.machine := rfl
@[simp] theorem State.setRegs_sched (s : State) (f : RegFile) : (s.setRegs f).sched = s.sched := rfl
@[simp] theorem State.setRegs_phase (s : State) (f : RegFile) : (s.setRegs f).phase = s.phase := rfl
@[simp] theorem State.setRegs_answers (s : State) (f : RegFile) : (s.setRegs f).answers = s.answers := rfl
@[simp] theorem State.setRegs_draws (s : State) (f : RegFile) : (s.setRegs f).draws = s.draws := rfl

@[simp] theorem State.stop_cfg (s : State) (g : Signal) : (s.stop g).cfg = s.cfg := rfl
@[simp] theorem State.stop_mem (s : State) (g : Signal) : (s.stop g).mem = s.mem := rfl
@[simp] theorem State.stop_pcbCount (s : State) (g : Signal) : (s.stop g).pcbCount = s.pcbCount := rfl
@[simp] theorem State.stop_segTable (s : State) (g : Signal) : (s.stop g).segTable = s.segTable := rfl
@[simp] theorem State.stop_drivers (s : State) (g : Signal) : (s.stop g).drivers = s.drivers := rfl
@[simp] theorem State.stop_waiting (s : State) (g : Signal) : (s.stop g).waiting = s.waiting := rfl
@[simp] theorem State.stop_machine (s : State) (g : Signal) : (s.stop g).machine = s.machine := rfl
@[simp] theorem State.stop_sched (s : State) (g : Signal) : (s.stop g).sched = s.sched := rfl
@[simp] theorem State.stop_ctx (s : State) (g : Signal) : (s.stop g).ctx = s.ctx := rfl
@[simp] theorem State.stop_answers (s : State) (g : Signal) : (s.stop g).answers = s.answers := rfl
@[simp] theorem State.stop_draws (s : State) (g : Signal) : (s.stop g).draws = s.draws := rfl

@[simp] theorem State.fatal_cfg (s : State) (r : FatalReason) : (s.fatal r).cfg = s.cfg := rfl
@[simp] theorem State.fatal_mem (s : State) (r : FatalReason) : (s.fatal r).mem = s.mem := rfl
@[simp] theorem State.fatal_pcbCount (s : State) (r : FatalReason) : (s.fatal r).pcbCount = s.pcbCount := rfl
@[simp] theorem State.fatal_segTable (s : State) (r : FatalReason) : (s.fatal r).segTable = s.segTable := rfl
@[simp] theorem State.fatal_drivers (s : State) (r : FatalReason) : (s.fatal r).drivers = s.drivers := rfl
@[simp] theorem State.fatal_waiting (s : State) (r : FatalReason) : (s.fatal r).waiting = s.waiting := rfl
@[simp] theorem State.fatal_sched (s : State) (r : FatalReason) : (s.fatal r).sched = s.sched := rfl
@[simp] theorem State.fatal_ctx (s : State) (r : FatalReason) : (s.fatal r).ctx = s.ctx := rfl
@[simp] theorem State.fatal_answers (s : State) (r : FatalReason) : (s.fatal r).answers = s.answers := rfl
@[simp] theorem State.fatal_draws (s : State) (r : FatalReason) : (s.fatal r).draws = s.draws := rfl
@[simp] theorem State.fatal_machine (s : State) (r : FatalReason) : (s.fatal r).machine = s.machine := rfl

@[simp] theorem State.stopMachine_cfg (s : State) (r : FatalReason) : (s.stopMachine r).cfg = s.cfg := rfl
@[simp] theorem State.stopMachine_mem (s : State) (r : FatalReason) : (s.stopMachine r).mem = s.mem := rfl
@[simp] theorem State.stopMachine_pcbCount (s : State) (r : FatalReason) : (s.stopMachine r).pcbCount = s.pcbCount := rfl
@[simp] theorem State.stopMachine_segTable (s : State) (r : FatalReason) : (s.stopMachine r).segTable = s.segTable := rfl
@[simp] theorem State.stopMachine_drivers (s : State) (r : FatalReason) : (s.stopMachine r).drivers = s.drivers := rfl
@[simp] theorem State.stopMachine_waiting (s : State) (r : FatalReason) : (s.stopMachine r).waiting = s.waiting := rfl
@[simp] theorem State.stopMachine_sched (s : State) (r : FatalReason) : (s.stopMachine r).sched = s.sched := rfl
@[simp] theorem State.stopMachine_phase (s : State) (r : FatalReason) : (s.stopMachine r).phase = s.phase := rfl
@[simp] theorem State.stopMachine_ctx (s : State) (r : FatalReason) : (s.stopMachine r).ctx = s.ctx := rfl
@[simp] theorem State.stopMachine_answers (s : State) (r : FatalReason) : (s.stopMachine r).answers = s.answers := rfl
@[simp] theorem State.stopMachine_draws (s : State) (r : FatalReason) : (s.stopMachine r).draws = s.draws := rfl

@[simp] theorem State.trapCall_cfg (s : State) (k : TrapKind) (v : Vec6) : (s.trapCall k v).cfg = s.cfg := rfl
@[simp] theorem State.trapCall_mem (s : State) (k : TrapKind) (v : Vec6) : (s.trapCall k v).mem = s.mem := rfl
@[simp] theorem State.trapCall_pcbCount (s : State) (k : TrapKind) (v : Vec6) : (s.trapCall k v).pcbCount = s.pcbCount := rfl
@[simp] theorem State.trapCall_segTable (s : State) (k : TrapKind) (v : Vec6) : (s.trapCall k v).segTable = s.segTable := rfl
@[simp] theorem State.trapCall_drivers (s : State) (k : TrapKind) (v : Vec6) : (s.trapCall k v).drivers = s.drivers := rfl
@[simp] theorem State.trapCall_waiting (s : State) (k : TrapKind) (v : Vec6) : (s.trapCall k v).waiting = s.waiting := rfl
@[simp] theorem State.trapCall_machine (s : State) (k : TrapKind) (v : Vec6) : (s.trapCall k v).machine = s.machine := rfl
@[simp] theorem State.trapCall_sched (s : State) (k : TrapKind) (v : Vec6) : (s.trapCall k v).sched = s.sched := rfl
@[simp] theorem State.trapCall_ctx (s : State) (k : TrapKind) (v : Vec6) : (s.trapCall k v).ctx = s.ctx := rfl
@[simp] theorem State.trapCall_answers (s : State) (k : TrapKind) (v : Vec6) : (s.trapCall k v).answers = s.answers := rfl
@[simp] theorem State.trapCall_draws (s : State) (k : TrapKind) (v : Vec6) : (s.trapCall k v).draws = s.draws := rfl

@[simp] theorem State.countStep_cfg (s : State) : (s.countStep).cfg = s.cfg := rfl
@[simp] theorem State.countStep_mem (s : State) : (s.countStep).mem = s.mem := rfl
@[simp] theorem State.countStep_pcbCount (s : State) : (s.countStep).pcbCount = s.pcbCount := rfl
@[simp] theorem State.countStep_segTable (s : State) : (s.countStep).segTable = s.segTable := rfl
@[simp] theorem State.countStep_drivers (s : State) : (s.countStep).drivers = s.drivers := rfl
@[simp] theorem State.countStep_waiting (s : State) : (s.countStep).waiting = s.waiting := rfl
@[simp] theorem State.countStep_machine (s : State) : (s.countStep).machine = s.machine := rfl
@[simp] theorem State.countStep_sched (s : State) : (s.countStep).sched = s.sched := rfl
@[simp] theorem State.countStep_phase (s : State) : (s.countStep).phase = s.phase := rfl
@[simp] theorem State.countStep_answers (s : State) : (s.countStep).answers = s.answers := rfl
@[simp] theorem State.countStep_draws (s : State) : (s.countStep).draws = s.draws := rfl

@[simp] theorem State.callDriver_cfg (s : State) (p : Byte) (f : Driver → Driver) : (s.callDriver p f).cfg = s.cfg := rfl
@[simp] theorem State.callDriver_mem (s : State) (p : Byte) (f : Driver → Driver) : (s.callDriver p f).mem = s.mem := rfl
@[simp] theorem State.callDriver_pcbCount (s : State) (p : Byte) (f : Driver → Driver) : (s.callDriver p f).pcbCount = s.pcbCount := rfl
@[simp] theorem State.callDriver_segTable (s : State) (p : Byte) (f : Driver → Driver) : (s.callDriver p f).segTable = s.segTable := rfl
@[simp] theorem State.callDriver_waiting (s : State) (p : Byte) (f : Driver → Driver) : (s.callDriver p f).waiting = s.waiting := rfl
@[simp] theorem State.callDriver_machine (s : State) (p : Byte) (f : Driver → Driver) : (s.callDriver p f).machine = s.machine := rfl
@[simp] theorem State.callDriver_sched (s : State) (p : Byte) (f : Driver → Driver) : (s.callDriver p f).sched = s.sched := rfl
@[simp] theorem State.callDriver_phase (s : State) (p : Byte) (f : Driver → Driver) : (s.callDriver p f).phase = s.phase := rfl
@[simp] theorem State.callDriver_ctx (s : State) (p : Byte) (f : Driver → Driver) : (s.callDriver p f).ctx = s.ctx := rfl
@[simp] theorem State.callDriver_answers (s : State) (p : Byte) (f : Driver → Driver) : (s.callDriver p f).answers = s.answers := rfl
@[simp] theorem State.callDriver_draws (s : State) (p : Byte) (f : Driver → Driver) : (s.callDriver p f).draws = s.draws := rfl

@[simp] theorem State.countDraw_cfg (s : State) : (s.countDraw).cfg = s.cfg := rfl
@[simp] theorem State.countDraw_mem (s : State) : (s.countDraw).mem = s.mem := rfl
@[simp] theorem State.countDraw_pcbCount (s : State) : (s.countDraw).pcbCount = s.pcbCount := rfl
@[simp] theorem State.countDraw_segTable (s : State) : (s.countDraw).segTable = s.segTable := rfl
@[simp] theorem State.countDraw_drivers (s : State) : (s.countDraw).drivers = s.drivers := rfl
@[simp] theorem State.countDraw_waiting (s : State) : (s.countDraw).waiting = s.waiting := rfl
@[simp] theorem State.countDraw_machine (s : State) : (s.countDraw).machine = s.machine := rfl
@[simp] theorem State.countDraw_sched (s : State) : (s.countDraw).sched = s.sched := rfl
@[simp] theorem State.countDraw_phase (s : State) : (s.countDraw).phase = s.phase := rfl
@[simp] theorem State.countDraw_ctx (s : State) : (s.countDraw).ctx = s.ctx := rfl
@[simp] theorem State.countDraw_answers (s : State) : (s.countDraw).answers = s.answers := rfl

@[simp] theorem State.takeAnswer_cfg (s : State) : (s.takeAnswer).cfg = s.cfg := rfl
@[simp] theorem State.takeAnswer_mem (s : State) : (s.takeAnswer).mem = s.mem := rfl
@[simp] theorem State.takeAnswer_pcbCount (s : State) : (s.takeAnswer).pcbCount = s.pcbCount := rfl
@[simp] theorem State.takeAnswer_segTable (s : State) : (s.takeAnswer).segTable = s.segTable := rfl
@[simp] theorem State.takeAnswer_drivers (s : State) : (s.takeAnswer).drivers = s.drivers := rfl
@[simp] theorem State.takeAnswer_waiting (s : State) : (s.takeAnswer).waiting = s.waiting := rfl
@[simp] theorem State.takeAnswer_machine (s : State) : (s.takeAnswer).machine = s.machine := rfl
@[simp] theorem State.takeAnswer_sched (s : State) : (s.takeAnswer).sched = s.sched := rfl
@[simp] theorem State.takeAnswer_phase (s : State) : (s.takeAnswer).phase = s.phase := rfl
@[simp] theorem State.takeAnswer_ctx (s : State) : (s.takeAnswer).ctx = s.ctx := rfl

@[simp] theorem State.nextMember_cfg (s : State) (b : Bool) : (s.nextMember b).cfg = s.cfg := rfl
@[simp] theorem State.nextMember_mem (s : State) (b : Bool) : (s.nextMember b).mem = s.mem := rfl
@[simp] theorem State.nextMember_pcbCount (s : State) (b : Bool) : (s.nextMember b).pcbCount = s.pcbCount := rfl
@[simp] theorem State.nextMember_segTable (s : State) (b : Bool) : (s.nextMember b).segTable = s.segTable := rfl
@[simp] theorem State.nextMember_drivers (s : State) (b : Bool) : (s.nextMember b).drivers = s.drivers := rfl
@[simp] theorem State.nextMember_waiting (s : State) (b : Bool) : (s.nextMember b).waiting = s.waiting := rfl
@[simp] theorem State.nextMember_machine (s : State) (b : Bool) : (s.nextMember b).machine = s.machine := rfl
@[simp] theorem State.nextMember_phase (s : State) (b : Bool) : (s.nextMember b).phase = s.phase := rfl
@[simp] theorem State.nextMember_ctx (s : State) (b : Bool) : (s.nextMember b).ctx = s.ctx := rfl
@[simp] theorem State.nextMember_answers (s : State) (b : Bool) : (s.nextMember b).answers = s.answers := rfl
@[simp] theorem State.nextMember_draws (s : State) (b : Bool) : (s.nextMember b).draws = s.draws := rfl

@[simp] theorem State.startPass_cfg (s : State) : (s.startPass).cfg = s.cfg := rfl
@[simp] theorem State.startPass_mem (s : State) : (s.startPass).mem = s.mem := rfl
@[simp] theorem State.startPass_pcbCount (s : State) : (s.startPass).pcbCount = s.pcbCount := rfl
@[simp] theorem State.startPass_segTable (s : State) : (s.startPass).segTable = s.segTable := rfl
@[simp] theorem State.startPass_drivers (s : State) : (s.startPass).drivers = s.drivers := rfl
@[simp] theorem State.startPass_waiting (s : State) : (s.startPass).waiting = s.waiting := rfl
@[simp] theorem State.startPass_machine (s : State) : (s.startPass).machine = s.machine := rfl
@[simp] theorem State.startPass_phase (s : State) : (s.startPass).phase = s.phase := rfl
@[simp] theorem State.startPass_ctx (s : State) : (s.startPass).ctx = s.ctx := rfl
@[simp] theorem State.startPass_answers (s : State) : (s.startPass).answers = s.answers := rfl
@[simp] theorem State.startPass_draws (s : State) : (s.startPass).draws = s.draws := rfl

@[simp] theorem State.writeback_cfg (s : State) (w : Word) : (s.writeback w).cfg = s.cfg := by simp only [State.writeback]
@[simp] theorem State.writeback_pcbCount (s : State) (w : Word) : (s.writeback w).pcbCount = s.pcbCount := by simp only [State.writeback]
@[simp] theorem State.writeback_segTable (s : State) (w : Word) : (s.writeback w).segTable = s.segTable := by simp only [State.writeback]
@[simp] theorem State.writeback_drivers (s : State) (w : Word) : (s.writeback w).drivers = s.drivers := by simp only [State.writeback]
@[simp] theorem State.writeback_waiting (s : State) (w : Word) : (s.writeback w).waiting = s.waiting := by simp only [State.writeback]
@[simp] theorem State.writeback_machine (s : State) (w : Word) : (s.writeback w).machine = s.machine := by simp only [State.writeback]
@[simp] theorem State.writeback_sched (s : State) (w : Word) : (s.writeback w).sched = s.sched := by simp only [State.writeback]
@[simp] theorem State.writeback_phase (s : State) (w : Word) : (s.writeback w).phase = s.phase := by simp only [State.writeback]
@[simp] theorem State.writeback_answers (s : State) (w : Word) : (s.writeback w).answers = s.answers := by simp only [State.writeback]
@[simp] theorem State.writeback_draws (s : State) (w : Word) : (s.writeback w).draws = s.draws := by simp only [State.writeback]

@[simp] theorem State.setRegs_ctx_pcb (s : State) (f : RegFile) : (s.setRegs f).ctx.pcb = s.ctx.pcb := rfl
@[simp] theorem State.setRegs_ctx_ring (s : State) (f : RegFile) : (s.setRegs f).ctx.ring = s.ctx.ring := rfl
@[simp] theorem State.setRegs_ctx_pid (s : State) (f : RegFile) : (s.setRegs f).ctx.pid = s.ctx.pid := rfl
@[simp] theorem State.setRegs_ctx_segs (s : State) (f : RegFile) : (s.setRegs f).ctx.segs = s.ctx.segs := rfl
@[simp] theorem State.setRegs_ctx_statusWord (s : State) (f : RegFile) : (s.setRegs f).ctx.statusWord = s.ctx.statusWord := rfl
@[simp] theorem State.setRegs_ctx_steps (s : State) (f : RegFile) : (s.setRegs f).ctx.steps = s.ctx.steps := rfl
@[simp] theorem State.setRegs_ctx_trace (s : State) (f : RegFile) : (s.setRegs f).ctx.trace = s.ctx.trace := rfl

@[simp] theorem State.countStep_ctx_pcb (s : State) : (s.countStep).ctx.pcb = s.ctx.pcb := rfl
@[simp] theorem State.countStep_ctx_ring (s : State) : (s.countStep).ctx.ring = s.ctx.ring := rfl
@[simp] theorem State.countStep_ctx_pid (s : State) : (s.countStep).ctx.pid = s.ctx.pid := rfl
@[simp] theorem State.countStep_ctx_segs (s : State) : (s.countStep).ctx.segs = s.ctx.segs := rfl
@[simp] theorem State.countStep_ctx_statusWord (s : State) : (s.countStep).ctx.statusWord = s.ctx.statusWord := rfl
@[simp] theorem State.countStep_ctx_regs (s : State) : (s.countStep).ctx.regs = s.ctx.regs := rfl
@[simp] theorem State.countStep_ctx_trace (s : State) : (s.countStep).ctx.trace = s.ctx.trace := rfl

@[simp] theorem State.writeback_ctx_pcb (s : State) (w : Word) : (s.writeback w).ctx.pcb = s.ctx.pcb := by simp only [State.writeback]
@[simp] theorem State.writeback_ctx_ring (s : State) (w : Word) : (s.writeback w).ctx.ring = s.ctx.ring := by simp only [State.writeback]
@[simp] theorem State.writeback_ctx_pid (s : State) (w : Word) : (s.writeback w).ctx.pid = s.ctx.pid := by simp only [State.writeback]
@[simp] theorem State.writeback_ctx_segs (s : State) (w : Word) : (s.writeback w).ctx.segs = s.ctx.segs := by simp only [State.writeback]
@[simp] theorem State.writeback_ctx_regs (s : State) (w : Word) : (s.writeback w).ctx.regs = s.ctx.regs := by simp only [State.writeback]
@[simp] theorem State.writeback_ctx_steps (s : State) (w : Word) : (s.writeback w).ctx.steps = s.ctx.steps := by simp only [State.writeback]
@[simp] theorem State.writeback_ctx_trace (s : State) (w : Word) : (s.writeback w).ctx.trace = s.ctx.trace := by simp only [State.writeback]

@[simp] theorem State.appendPcb_cfg (s : State) (b : PcbBlock) (l : List Segment) : (s.appendPcb b l).cfg = s.cfg := by simp only [State.appendPcb]
@[simp] theorem State.appendPcb_drivers (s : State) (b : PcbBlock) (l : List Segment) : (s.appendPcb b l).drivers = s.drivers := by simp only [State.appendPcb]
@[simp] theorem State.appendPcb_waiting (s : State) (b : PcbBlock) (l : List Segment) : (s.appendPcb b l).waiting = s.waiting := by simp only [State.appendPcb]
@[simp] theorem State.appendPcb_machine (s : State) (b : PcbBlock) (l : List Segment) : (s.appendPcb b l).machine = s.machine := by simp only [State.appendPcb]
@[simp] theorem State.appendPcb_sched (s : State) (b : PcbBlock) (l : List Segment) : (s.appendPcb b l).sched = s.sched := by simp only [State.appendPcb]
@[simp] theorem State.appendPcb_phase (s : State) (b : PcbBlock) (l : List Segment) : (s.appendPcb b l).phase = s.phase := by simp only [State.appendPcb]
@[simp] theorem State.appendPcb_ctx (s : State) (b : PcbBlock) (l : List Segment) : (s.appendPcb b l).ctx = s.ctx := by simp only [State.appendPcb]
@[simp] theorem State.appendPcb_answers (s : State) (b : PcbBlock) (l : List Segment) : (s.appendPcb b l).answers = s.answers := by simp only [State.appendPcb]
@[simp] theorem State.appendPcb_draws (s : State) (b : PcbBlock) (l : List Segment) : (s.appendPcb b l).draws = s.draws := by simp only [State.appendPcb]
@[simp] theorem State.appendPcb_pcbCount (s : State) (b : PcbBlock) (l : List Segment) :
    (s.appendPcb b l).pcbCount = s.pcbCount + 1 := by simp only [State.appendPcb]
@[simp] theorem State.appendPcb_mem (s : State) (b : PcbBlock) (l : List Segment) :
    (s.appendPcb b l).mem = s.mem.writeBytes (s.pcbAddr s.pcbCount) (PcbBlock.bytes b) := by simp only [State.appendPcb]
@[simp] theorem State.writeback_mem (s : State) (w : Word) : (s.writeback w).mem = s.writebackMem w := by simp only [State.writeback]

@[simp] theorem State.setRegs_ctx_regs (s : State) (f : RegFile) : (s.setRegs f).ctx.regs = f := rfl
@[simp] theorem State.countStep_ctx_steps (s : State) : s.countStep.ctx.steps = s.ctx.steps + 1 := rfl
@[simp] theorem State.writeback_ctx_statusWord (s : State) (w : Word) : (s.writeback w).ctx.statusWord = w := by simp only [State.writeback]
@[simp] theorem State.stop_phase (s : State) (g : Signal) : (s.stop g).phase = .returned g := rfl
@[simp] theorem State.trapCall_phase (s : State) (k : TrapKind) (v : Vec6) : (s.trapCall k v).phase = .suspended k v := rfl
@[simp] theorem State.fatal_phase (s : State) (r : FatalReason) : (s.fatal r).phase = .stopping r := rfl
@[simp] theorem State.stopMachine_machine (s : State) (r : FatalReason) :
    (s.stopMachine r).machine = .fatal r { regs := s.ctx.regs, trace := s.ctx.trace } := rfl
@[simp] theorem State.callDriver_drivers (s : State) (p : Byte) (f : Driver → Driver) :
    (s.callDriver p f).drivers = updateDriver p f s.drivers := rfl
@[simp] theorem State.startPass_sched (s : State) :
    s.startPass.sched = { members := List.range s.pcbCount, next := 0, ran := false } := rfl
@[simp] theorem State.nextMember_sched (s : State) (b : Bool) :
    (s.nextMember b).sched = { s.sched with next := s.sched.next + 1, ran := b } := rfl

@[simp] theorem State.setRegs_setRegs (s : State) (f g : RegFile) : (s.setRegs f).setRegs g = s.setRegs g := rfl
@[simp] theorem State.setRegs_self (s : State) : s.setRegs s.ctx.regs = s := rfl

/-! The register accessors are the running register file's. -/

theorem State.reg_eq (s : State) (r : Reg16) : s.reg r = s.ctx.regs.get r := rfl
theorem State.setReg_eq (s : State) (r : Reg16) (v : Word) : s.setReg r v = s.setRegs (s.ctx.regs.set r v) := rfl
theorem State.setIp_eq (s : State) (v : Word) : s.setIp v = s.setRegs (s.ctx.regs.setIp v) := rfl
theorem State.setFlags_eq (s : State) (v : Word) : s.setFlags v = s.setRegs (s.ctx.regs.setFlags v) := rfl
theorem State.advance_eq (s : State) (n : Word) : s.advance n = s.setRegs (s.ctx.regs.setIp (s.ctx.regs.ip + n)) := rfl

/-- The trace's field is the one that noting an instruction may change. -/
theorem State.noteExecuted_eq (s : State) (i : Instr) :
    ∃ tr, tr.length ≤ max s.ctx.trace.length s.cfg.traceLen ∧
      s.noteExecuted i = { s with ctx := { s.ctx with trace := tr } } := by
  unfold State.noteExecuted
  split
  · exact ⟨s.ctx.trace, le_max_left _ _, rfl⟩
  · exact ⟨_, by simp only [List.length_take]; omega, rfl⟩

@[simp] theorem State.noteExecuted_cfg (s : State) (i : Instr) : (s.noteExecuted i).cfg = s.cfg := by unfold State.noteExecuted; split <;> rfl
@[simp] theorem State.noteExecuted_mem (s : State) (i : Instr) : (s.noteExecuted i).mem = s.mem := by unfold State.noteExecuted; split <;> rfl
@[simp] theorem State.noteExecuted_pcbCount (s : State) (i : Instr) : (s.noteExecuted i).pcbCount = s.pcbCount := by unfold State.noteExecuted; split <;> rfl
@[simp] theorem State.noteExecuted_segTable (s : State) (i : Instr) : (s.noteExecuted i).segTable = s.segTable := by unfold State.noteExecuted; split <;> rfl
@[simp] theorem State.noteExecuted_drivers (s : State) (i : Instr) : (s.noteExecuted i).drivers = s.drivers := by unfold State.noteExecuted; split <;> rfl
@[simp] theorem State.noteExecuted_waiting (s : State) (i : Instr) : (s.noteExecuted i).waiting = s.waiting := by unfold State.noteExecuted; split <;> rfl
@[simp] theorem State.noteExecuted_machine (s : State) (i : Instr) : (s.noteExecuted i).machine = s.machine := by unfold State.noteExecuted; split <;> rfl
@[simp] theorem State.noteExecuted_sched (s : State) (i : Instr) : (s.noteExecuted i).sched = s.sched := by unfold State.noteExecuted; split <;> rfl
@[simp] theorem State.noteExecuted_phase (s : State) (i : Instr) : (s.noteExecuted i).phase = s.phase := by unfold State.noteExecuted; split <;> rfl
@[simp] theorem State.noteExecuted_answers (s : State) (i : Instr) : (s.noteExecuted i).answers = s.answers := by unfold State.noteExecuted; split <;> rfl
@[simp] theorem State.noteExecuted_draws (s : State) (i : Instr) : (s.noteExecuted i).draws = s.draws := by unfold State.noteExecuted; split <;> rfl
@[simp] theorem State.noteExecuted_ctx_pcb (s : State) (i : Instr) : (s.noteExecuted i).ctx.pcb = s.ctx.pcb := by unfold State.noteExecuted; split <;> rfl
@[simp] theorem State.noteExecuted_ctx_ring (s : State) (i : Instr) : (s.noteExecuted i).ctx.ring = s.ctx.ring := by unfold State.noteExecuted; split <;> rfl
@[simp] theorem State.noteExecuted_ctx_pid (s : State) (i : Instr) : (s.noteExecuted i).ctx.pid = s.ctx.pid := by unfold State.noteExecuted; split <;> rfl
@[simp] theorem State.noteExecuted_ctx_segs (s : State) (i : Instr) : (s.noteExecuted i).ctx.segs = s.ctx.segs := by unfold State.noteExecuted; split <;> rfl
@[simp] theorem State.noteExecuted_ctx_statusWord (s : State) (i : Instr) : (s.noteExecuted i).ctx.statusWord = s.ctx.statusWord := by unfold State.noteExecuted; split <;> rfl
@[simp] theorem State.noteExecuted_ctx_regs (s : State) (i : Instr) : (s.noteExecuted i).ctx.regs = s.ctx.regs := by unfold State.noteExecuted; split <;> rfl
@[simp] theorem State.noteExecuted_ctx_steps (s : State) (i : Instr) : (s.noteExecuted i).ctx.steps = s.ctx.steps := by unfold State.noteExecuted; split <;> rfl

/-! ## The register file -/

@[simp] theorem RegFile.get_set_same (f : RegFile) (r : Reg16) (v : Word) : RegFile.get (RegFile.set f r v) r = v := by
  cases r <;> rfl

@[simp] theorem RegFile.get_set_ne (f : RegFile) {r q : Reg16} (v : Word) (h : q ≠ r) :
    RegFile.get (RegFile.set f r v) q = RegFile.get f q := by
  cases r <;> cases q <;> first | rfl | exact absurd rfl h

@[simp] theorem RegFile.set_ip (f : RegFile) (r : Reg16) (v : Word) : (RegFile.set f r v).ip = f.ip := by
  cases r <;> rfl

@[simp] theorem RegFile.set_flags (f : RegFile) (r : Reg16) (v : Word) : (RegFile.set f r v).flags = f.flags := by
  cases r <;> rfl

@[simp] theorem RegFile.get_setIp (f : RegFile) (v : Word) (q : Reg16) : (f.setIp v).get q = f.get q := by
  cases q <;> rfl

@[simp] theorem RegFile.get_setFlags (f : RegFile) (v : Word) (q : Reg16) : (f.setFlags v).get q = f.get q := by
  cases q <;> rfl

@[simp] theorem RegFile.setIp_ip (f : RegFile) (v : Word) : (f.setIp v).ip = v := rfl
@[simp] theorem RegFile.setIp_flags (f : RegFile) (v : Word) : (f.setIp v).flags = f.flags := rfl
@[simp] theorem RegFile.setFlags_ip (f : RegFile) (v : Word) : (f.setFlags v).ip = f.ip := rfl
@[simp] theorem RegFile.setFlags_flags (f : RegFile) (v : Word) : (f.setFlags v).flags = v := rfl

end Sys2Proof.Machine
end

