-- ==== Sys2Proof/Laws/Bits.lean ====
section
/-! SUPPORT. The laws of the byte order helpers and of the FLAGS merge. -/

namespace Sys2Proof

/-- The low byte of a word put together from bytes. -/
@[simp] theorem lowByte_wordOfBytes (lo hi : Byte) : lowByte (wordOfBytes lo hi) = lo := by
  apply BitVec.eq_of_getLsbD_eq
  intro i hi
  simp only [lowByte, wordOfBytes, BitVec.getLsbD_extractLsb', BitVec.getLsbD_append]
  simp [hi]

/-- The high byte of a word put together from bytes. -/
@[simp] theorem highByte_wordOfBytes (lo hi : Byte) : highByte (wordOfBytes lo hi) = hi := by
  apply BitVec.eq_of_getLsbD_eq
  intro i hi
  simp only [highByte, wordOfBytes, BitVec.getLsbD_extractLsb', BitVec.getLsbD_append]
  simp [hi]

/-- A word is put together from its own bytes (30_encoding.md R114). -/
@[simp] theorem wordOfBytes_bytes (w : Word) : wordOfBytes (lowByte w) (highByte w) = w := by
  apply BitVec.eq_of_getLsbD_eq
  intro i hi
  simp only [lowByte, highByte, wordOfBytes, BitVec.getLsbD_append, BitVec.getLsbD_extractLsb']
  split
  · simp [*]
  · simp [show 8 + (i - 8) = i by omega, show i - 8 < 8 by omega]

/-- `lo + 256 * hi` (20_memory.md R85). -/
theorem toNat_wordOfBytes (lo hi : Byte) : (wordOfBytes lo hi).toNat = hi.toNat * 256 + lo.toNat := by
  have := lo.isLt
  rw [wordOfBytes, BitVec.toNat_append, ← Nat.shiftLeft_add_eq_or_of_lt (by simpa using this), Nat.shiftLeft_eq]

theorem toNat_lowByte (w : Word) : (lowByte w).toNat = w.toNat % 256 := by simp [lowByte]

theorem toNat_highByte (w : Word) : (highByte w).toNat = w.toNat / 256 := by
  have := w.isLt
  simp [highByte, Nat.shiftRight_eq_div_pow]; omega

namespace Machine

/-- A merge writes the five named flags (41_alu.md R183). -/
@[simp] theorem flagBits_mergeFlags (f : Word) (b : FlagBits) : flagBits (mergeFlags f b) = b := by
  obtain ⟨c, p, z, s, o⟩ := b
  simp only [flagBits, mergeFlags, BitVec.getLsbD_or, BitVec.getLsbD_and]
  simp [flagAt]

/-- A merge keeps the other eleven bits (41_alu.md R183). -/
theorem mergeFlags_reserved (f : Word) (b : FlagBits) : mergeFlags f b &&& ~~~0x08C5#16 = f &&& ~~~0x08C5#16 := by
  have h : ∀ b, flagAt b 0 &&& ~~~0x08C5#16 = 0#16 ∧ flagAt b 2 &&& ~~~0x08C5#16 = 0#16 ∧ flagAt b 6 &&& ~~~0x08C5#16 = 0#16 ∧
      flagAt b 7 &&& ~~~0x08C5#16 = 0#16 ∧ flagAt b 11 &&& ~~~0x08C5#16 = 0#16 := by decide
  have hd : ∀ x y z : Word, (x ||| y) &&& z = (x &&& z) ||| (y &&& z) := by
    intro x y z; ext i hi; simp [Bool.and_or_distrib_right]
  obtain ⟨c, p, z, s, o⟩ := b
  simp only [mergeFlags, hd, (h o).2.2.2.2, (h s).2.2.2.1, (h z).2.2.1, (h p).2.1, (h c).1]
  simp [BitVec.and_assoc]

end Machine

end Sys2Proof
end

