-- ==== Sys2Proof/Laws/Memory.lean ====
section
/-! SUPPORT. The laws of the backing memory: a read after a write, and the canonical form that every
memory operation keeps. -/

namespace Sys2Proof.Machine

/-! ## Canonical form -/

theorem Memory.canonicalFrom_mono {size lo lo' : Nat} {m : Memory} (h : lo' ≤ lo)
    (hm : Memory.canonicalFrom size lo m = true) : Memory.canonicalFrom size lo' m = true := by
  cases m with
  | nil => rfl
  | cons c m =>
    obtain ⟨a, b⟩ := c
    simp only [Memory.canonicalFrom, Bool.and_eq_true, decide_eq_true_eq] at hm ⊢
    exact ⟨⟨⟨h.trans hm.1.1.1, hm.1.1.2⟩, hm.1.2⟩, hm.2⟩

/-- A cell before the rest of a memory keeps the form. -/
theorem Memory.canonicalFrom_cell {size lo g : Nat} {b : Byte} {m : Memory} (hlo : lo ≤ g) (hg : g < size)
    (hm : Memory.canonicalFrom size (g + 1) m = true) :
    Memory.canonicalFrom size lo (Memory.cell g b ++ m) = true := by
  unfold Memory.cell
  split
  · exact Memory.canonicalFrom_mono (by omega) hm
  · rename_i hb
    simp only [List.cons_append, List.nil_append, Memory.canonicalFrom, Bool.and_eq_true, decide_eq_true_eq, bne_iff_ne]
    exact ⟨⟨⟨hlo, hg⟩, hb⟩, hm⟩

theorem Memory.canonicalFrom_write {size g : Nat} (b : Byte) (hg : g < size) :
    ∀ {m : Memory} {lo : Nat}, lo ≤ g → Memory.canonicalFrom size lo m = true →
      Memory.canonicalFrom size lo (Memory.write m g b) = true
  | [], lo, hlo, _ => by
    simpa [Memory.write] using Memory.canonicalFrom_cell (b := b) (m := []) hlo hg rfl
  | (a, c) :: m, lo, hlo, hm => by
    have hm' := hm
    simp only [Memory.canonicalFrom, Bool.and_eq_true, decide_eq_true_eq] at hm'
    obtain ⟨⟨⟨h1, h2⟩, h3⟩, h4⟩ := hm'
    unfold Memory.write
    split
    · refine Memory.canonicalFrom_cell hlo hg ?_
      simp only [Memory.canonicalFrom, Bool.and_eq_true, decide_eq_true_eq]
      exact ⟨⟨⟨by omega, h2⟩, h3⟩, h4⟩
    · split
      · subst_vars
        exact Memory.canonicalFrom_cell hlo hg h4
      · simp only [Memory.canonicalFrom, Bool.and_eq_true, decide_eq_true_eq]
        exact ⟨⟨⟨h1, h2⟩, h3⟩, Memory.canonicalFrom_write b hg (by omega) h4⟩

/-- A write below the size keeps the canonical form. -/
theorem Memory.wf_write {size g : Nat} {m : Memory} (b : Byte) (hg : g < size) (hm : m.wf size = true) :
    (m.write g b).wf size = true :=
  Memory.canonicalFrom_write b hg (Nat.zero_le g) hm

/-- A run of writes below the size keeps the canonical form. -/
theorem Memory.wf_writeBytes {size : Nat} : ∀ {bs : List Byte} {m : Memory} {g : Nat}, g + bs.length ≤ size →
    m.wf size = true → (m.writeBytes g bs).wf size = true
  | [], _, _, _, hm => hm
  | _ :: bs, _, _, hg, hm => by
    simp only [List.length_cons] at hg
    simp only [Memory.writeBytes]
    exact Memory.wf_writeBytes (by omega) (Memory.wf_write _ (by omega) hm)

/-- The empty memory has the canonical form. -/
@[simp] theorem Memory.wf_nil (size : Nat) : Memory.wf size [] = true := rfl

/-! ## Reads after writes -/

theorem Memory.read_cell_append_ne {g h : Nat} (b : Byte) (m : Memory) (hne : h ≠ g) :
    Memory.read (Memory.cell g b ++ m) h = Memory.read m h := by
  unfold Memory.cell
  split
  · rfl
  · simp [Memory.read, hne]

/-- A write leaves every other address alone. -/
theorem Memory.read_write_ne {g h : Nat} (b : Byte) (hne : h ≠ g) :
    ∀ m : Memory, (m.write g b).read h = m.read h
  | [] => by simpa [Memory.write] using Memory.read_cell_append_ne b [] hne
  | (a, c) :: m => by
    unfold Memory.write
    split
    · exact Memory.read_cell_append_ne b _ hne
    · split
      · subst_vars
        rw [Memory.read_cell_append_ne b m hne]
        simp [Memory.read, hne]
      · simp only [Memory.read, Memory.read_write_ne b hne m]

/-- An address below every listed one reads as an unlisted address does. -/
theorem Memory.read_below {size lo g : Nat} (hg : g < lo) :
    ∀ {m : Memory}, Memory.canonicalFrom size lo m = true → m.read g = Memory.unlisted
  | [], _ => rfl
  | (a, c) :: m, hm => by
    simp only [Memory.canonicalFrom, Bool.and_eq_true, decide_eq_true_eq] at hm
    simp only [Memory.read, show ¬ g = a by omega, if_false]
    exact Memory.read_below (by omega) hm.2

theorem Memory.read_cell_append_same {size g : Nat} (b : Byte) {m : Memory}
    (hm : Memory.canonicalFrom size (g + 1) m = true) : Memory.read (Memory.cell g b ++ m) g = b := by
  unfold Memory.cell
  split
  · subst_vars
    exact Memory.read_below (Nat.lt_succ_self g) hm
  · simp [Memory.read]

theorem Memory.read_write_same_from {size g : Nat} (b : Byte) :
    ∀ {m : Memory} {lo : Nat}, Memory.canonicalFrom size lo m = true → (m.write g b).read g = b
  | [], _, _ => by
    simpa [Memory.write] using Memory.read_cell_append_same (size := size) b (m := []) rfl
  | (a, c) :: m, lo, hm => by
    have hm' := hm
    simp only [Memory.canonicalFrom, Bool.and_eq_true, decide_eq_true_eq] at hm'
    obtain ⟨⟨⟨h1, h2⟩, h3⟩, h4⟩ := hm'
    unfold Memory.write
    split
    · refine Memory.read_cell_append_same (size := size) b ?_
      simp only [Memory.canonicalFrom, Bool.and_eq_true, decide_eq_true_eq]
      exact ⟨⟨⟨by omega, h2⟩, h3⟩, h4⟩
    · split
      · subst_vars
        exact Memory.read_cell_append_same b h4
      · rename_i hne
        simp only [Memory.read, if_neg hne]
        exact Memory.read_write_same_from b h4

/-- A read after a write to the same address gives the byte written. -/
theorem Memory.read_write_same {size g : Nat} (b : Byte) {m : Memory} (hm : m.wf size = true) :
    (m.write g b).read g = b :=
  Memory.read_write_same_from b hm

/-- A run of writes leaves every address outside the run alone. -/
theorem Memory.read_writeBytes_outside {h : Nat} : ∀ (bs : List Byte) (m : Memory) (g : Nat),
    (h < g ∨ g + bs.length ≤ h) → (m.writeBytes g bs).read h = m.read h
  | [], _, _, _ => rfl
  | b :: bs, m, g, hout => by
    simp only [List.length_cons] at hout
    simp only [Memory.writeBytes]
    rw [Memory.read_writeBytes_outside bs _ (g + 1) (by omega), Memory.read_write_ne b (by omega)]

/-- A read inside a run of writes gives the byte of the run. -/
theorem Memory.read_writeBytes_inside {size : Nat} : ∀ (bs : List Byte) (m : Memory) (g k : Nat) (hk : k < bs.length),
    g + bs.length ≤ size → m.wf size = true → (m.writeBytes g bs).read (g + k) = bs[k]
  | b :: bs, m, g, 0, _, hg, hm => by
    simp only [Memory.writeBytes, Nat.add_zero, List.getElem_cons_zero]
    rw [Memory.read_writeBytes_outside bs _ (g + 1) (Or.inl (Nat.lt_succ_self g)), Memory.read_write_same b hm]
  | b :: bs, m, g, k + 1, hk, hg, hm => by
    simp only [List.length_cons] at hg hk
    simp only [Memory.writeBytes, List.getElem_cons_succ]
    rw [show g + (k + 1) = (g + 1) + k by omega]
    exact Memory.read_writeBytes_inside bs _ (g + 1) k (by omega) (by omega) (Memory.wf_write b (by omega) hm)

end Sys2Proof.Machine
end

