-- ==== Sys2Proof/Laws/Ops.lean ====
section
/-! SUPPORT. One lemma per shared operation, saying everything it can do. -/

namespace Sys2Proof.Machine

/-! ## Operand forms -/

/-- An ALU operation changes the register file only. -/
theorem State.aluReg_eq (s : State) (op : AluOp) (r : Reg16) (b len : Word) :
    ∃ f : RegFile, s.aluReg op r b len = s.setRegs f ∧
      RegFile.get f r = (if op = .cmp then s.reg r else (aluApply op (s.reg r) b (flagBits s.flags)).result) ∧
      (∀ q, q ≠ r → RegFile.get f q = s.reg q) ∧
      f.flags = mergeFlags s.flags (aluApply op (s.reg r) b (flagBits s.flags)).flags ∧
      f.ip = s.ip + len := by
  by_cases h : op = .cmp
  · subst h
    exact ⟨(s.ctx.regs.setFlags _).setIp _, rfl, by simp [State.reg], by simp [State.reg], rfl, rfl⟩
  · refine ⟨((s.ctx.regs.set r _).setFlags _).setIp _, by simp only [State.aluReg, State.writeResult, if_neg h]; rfl,
      by simp [h], by simp +contextual [State.reg], by simp, by simp [State.ip, State.setReg_eq, State.setFlags_eq]⟩

/-- A jump moves IP and nothing else. -/
theorem State.jumpRel_eq (s : State) (taken : Bool) (rel : Byte) :
    s.jumpRel taken rel = s.setIp (if taken then s.ip + 2#16 + sext16 rel else s.ip + 2#16) := rfl

theorem State.jumpIf_eq (s : State) (c : Cond) (rel : Byte) :
    s.jumpIf c rel = s.setIp (if c.holds (flagBits s.flags) then s.ip + 2#16 + sext16 rel else s.ip + 2#16) := rfl

/-- The byte operand has a value exactly where translation answers an address inside the memory. -/
theorem State.loadByte_value (s : State) (a : Word) {g : Nat} (ht : s.translate a maskRead = some g)
    (hg : g < s.cfg.memSize) : s.loadByte a = .value (s.mem.read g) := by
  simp [State.loadByte, ht, State.byteAt, hg]

theorem State.loadByte_fail (s : State) (a : Word) (ht : s.translate a maskRead = none) : s.loadByte a = .fail := by
  simp [State.loadByte, ht]

theorem State.loadByte_outside (s : State) (a : Word) {g : Nat} (ht : s.translate a maskRead = some g)
    (hg : s.cfg.memSize ≤ g) : s.loadByte a = .outside := by
  simp [State.loadByte, ht, State.byteAt, Nat.not_lt.mpr hg]

/-! ## Privilege and ports -/

/-- The privilege check answers the body's state at ring 0 and PRIV_FAULT at any other ring. -/
theorem State.atRing0_next {s body t : State} (h : s.atRing0 body = .next t) :
    (s.ctx.ring = 0#8 ∧ t = body) ∨ (s.ctx.ring ≠ 0#8 ∧ t = s.stop .privFault) := by
  unfold State.atRing0 at h
  split at h <;> cases h
  · exact .inl ⟨‹_›, rfl⟩
  · exact .inr ⟨‹_›, rfl⟩

theorem State.atRing0_kernel {s : State} (body : State) (h : s.ctx.ring = 0#8) : s.atRing0 body = .next body := if_pos h

theorem State.atRing0_user {s : State} (body : State) (h : s.ctx.ring ≠ 0#8) :
    s.atRing0 body = .next (s.stop .privFault) := if_neg h

/-- A driver call changes the driver of its port and no other (10_state.md R55). -/
theorem State.driverAt_callDriver (s : State) (p q : Byte) (f : Driver → Driver) (hf : ∀ d, (f d).port = d.port) :
    (s.callDriver p f).driverAt q = if q = p then (s.driverAt p).map f else s.driverAt q := by
  simp only [State.driverAt, State.callDriver]
  induction s.drivers with
  | nil => simp [updateDriver]
  | cons d ds ih =>
    by_cases h : d.port = p <;> by_cases hq : q = p
    · simp [updateDriver, h, hq, hf]
    · simp [updateDriver, h, hq, hf, Ne.symm hq]
    · subst hq
      simp only [if_true] at ih
      simp [updateDriver, h, ih]
    · simp only [if_neg hq] at ih
      simp [updateDriver, h, hq, List.find?_cons, ih]

/-! ## PCB blocks and the code book -/

/-- The words the scheduler writes for EXIT and CPU_FAULT are terminal (60_exceptions.md R302). -/
theorem isTerminal_exitWord (c : StatusCode) (choice : Int → Nat) (n : Int) : c.isTerminal (exitWord c choice n) = true := by
  simp only [StatusCode.isTerminal, exitWord, Bool.or_eq_true, List.any_eq_true, beq_iff_eq, List.contains_iff_mem]
  cases h : c.exitListed.lookup n with
  | none =>
    cases hr : c.exitRest[choice n]? with
    | none => simp
    | some w => exact .inl (.inr (by simpa using List.mem_of_getElem? hr))
  | some w =>
    refine .inr ⟨(n, w), ?_, rfl⟩
    obtain ⟨l₁, l₂, hl, -⟩ := List.lookup_eq_some_iff.mp h
    simp [hl]

theorem isTerminal_exit (c : StatusCode) (n : Int) : c.isTerminal (statusWordOf c (.exit n)) = true :=
  isTerminal_exitWord c _ n

/-- Every map from exit codes to words is that of some code book and choice, and then the terminal words
are exactly the words of EXIT and CPU_FAULT (00_scope.md R15, 60_exceptions.md R302). -/
theorem StatusCode.covers_every_map (c : StatusCode) (f : Int → Word) : ∃ (d : StatusCode) (choice : Int → Nat),
    (d.none, d.run, d.wait, d.interrupt, d.sleep, d.faultMem, d.faultPriv) =
      (c.none, c.run, c.wait, c.interrupt, c.sleep, c.faultMem, c.faultPriv) ∧
    (∀ n, exitWord d choice n = f n) ∧
    ∀ w, d.isTerminal w = true ↔ w = c.faultMem ∨ w = c.faultPriv ∨ ∃ n, f n = w := by
  classical
  obtain ⟨l, hl⟩ : ∃ l : List Word, ∀ w, w ∈ l ↔ ∃ n, f n = w :=
    ⟨((List.finRange (2 ^ 16)).map BitVec.ofFin).filter (fun w => decide (∃ n, f n = w)), fun w => by
      simp only [List.mem_filter, List.mem_map, List.mem_finRange, true_and, decide_eq_true_eq, and_iff_right_iff_imp]
      exact fun _ => ⟨w.toFin, rfl⟩⟩
  refine ⟨{ c with exitListed := [], exitOther := f 0, exitRest := l }, fun n => l.idxOf (f n), rfl, fun n => ?_, fun w => ?_⟩
  · have hm : f n ∈ l := (hl _).mpr ⟨n, rfl⟩
    simp [exitWord, List.getElem?_eq_getElem (List.idxOf_lt_length_of_mem hm)]
  · have h0 : w = f 0 → ∃ n, f n = w := fun h => ⟨0, h.symm⟩
    simp only [StatusCode.isTerminal, Bool.or_eq_true, beq_iff_eq, List.contains_iff_mem, hl, List.any_nil, Bool.false_eq_true, or_false]
    tauto

theorem isTerminal_cpuFault (c : StatusCode) (k : FaultKind) : c.isTerminal (statusWordOf c (.cpuFault k)) = true := by
  cases k <;> simp [StatusCode.isTerminal, statusWordOf]

@[simp] theorem RegFile.bytes_length (f : RegFile) : (RegFile.bytes f).length = 20 := rfl

@[simp] theorem PcbBlock.bytes_length (p : PcbBlock) : (PcbBlock.bytes p).length = 28 := rfl

theorem State.hasPcb_iff (s : State) (n : Nat) : s.hasPcb n = true ↔ n < s.pcbCount ∧ s.tableFits = true := by
  simp [State.hasPcb]

/-- A block of a table that fits ends inside the memory. -/
theorem State.hasPcb_fits {s : State} {n : Nat} (h : s.hasPcb n = true) : s.pcbAddr n + 28 ≤ s.cfg.memSize := by
  obtain ⟨h1, h2⟩ := (s.hasPcb_iff n).mp h
  have hend : s.pcbAddr s.pcbCount ≤ s.cfg.memSize := of_decide_eq_true h2
  simp only [State.pcbAddr, pcbStride] at hend ⊢
  omega

/-- A block whose ten register words are those of a file in layout order holds that file (10_state.md R51). -/
theorem State.pcbRegs_eq {s : State} {n : Nat} {f : RegFile}
    (h : ∀ (j : Nat) (v : Word), (RegFile.words f)[j]? = some v → s.mem.readWord (s.pcbAddr n + 8 + 2 * j) = v) :
    s.pcbRegs n = f := by
  obtain ⟨ax, cx, dx, bx, sp, bp, si, di, ip, flags⟩ := f
  unfold State.pcbRegs
  rw [RegFile.mk.injEq]
  exact ⟨h 0 _ rfl, h 1 _ rfl, h 2 _ rfl, h 3 _ rfl, h 4 _ rfl, h 5 _ rfl, h 6 _ rfl, h 7 _ rfl, h 8 _ rfl, h 9 _ rfl⟩

/-- The writeback keeps the canonical form where the block lies in the memory. -/
theorem State.wf_writebackMem {s : State} (w : Word) (hf : s.pcbAddr s.ctx.pcb + 28 ≤ s.cfg.memSize)
    (hm : s.mem.wf s.cfg.memSize = true) : (s.writebackMem w).wf s.cfg.memSize = true := by
  unfold State.writebackMem
  refine Memory.wf_writeBytes (by rw [RegFile.bytes_length]; omega) (Memory.wf_writeBytes ?_ hm)
  simp only [List.length_cons, List.length_nil]
  omega

/-- The writeback leaves every byte but the status word and the register file of the block alone. -/
theorem State.read_writebackMem_outside {s : State} (w : Word) {a : Nat}
    (h1 : a < s.pcbAddr s.ctx.pcb ∨ s.pcbAddr s.ctx.pcb + 2 ≤ a)
    (h2 : a < s.pcbAddr s.ctx.pcb + 8 ∨ s.pcbAddr s.ctx.pcb + 28 ≤ a) :
    (s.writebackMem w).read a = s.mem.read a := by
  unfold State.writebackMem
  rw [Memory.read_writeBytes_outside _ _ _ (by rw [RegFile.bytes_length]; omega),
    Memory.read_writeBytes_outside _ _ _ (by simp only [List.length_cons, List.length_nil]; omega)]

/-! ## The host during a suspension -/

/-- What the host's acts leave alone and what they keep (60_exceptions.md R330, R331). -/
structure HostKeeps (s t : State) : Prop where
  cfg : t.cfg = s.cfg
  waiting : t.waiting = s.waiting
  machine : t.machine = s.machine
  sched : t.sched = s.sched
  phase : t.phase = s.phase
  ctx : t.ctx = s.ctx
  answers : t.answers = s.answers
  draws : t.draws = s.draws
  pcbCount : s.pcbCount ≤ t.pcbCount
  table : s.tableFits = true → t.tableFits = true
  memory : s.tableFits = true → s.mem.wf s.cfg.memSize = true → t.mem.wf t.cfg.memSize = true

theorem HostKeeps.refl (s : State) : HostKeeps s s :=
  ⟨rfl, rfl, rfl, rfl, rfl, rfl, rfl, rfl, le_rfl, id, fun _ h => h⟩

theorem HostKeeps.trans {s t u : State} (h : HostKeeps s t) (k : HostKeeps t u) : HostKeeps s u where
  cfg := k.cfg.trans h.cfg
  waiting := k.waiting.trans h.waiting
  machine := k.machine.trans h.machine
  sched := k.sched.trans h.sched
  phase := k.phase.trans h.phase
  ctx := k.ctx.trans h.ctx
  answers := k.answers.trans h.answers
  draws := k.draws.trans h.draws
  pcbCount := h.pcbCount.trans k.pcbCount
  table := fun ht => k.table (h.table ht)
  memory := fun ht hm => k.memory (h.table ht) (h.memory ht hm)

theorem State.hostEffect_keeps {s t : State} {e : HostEffect} (h : s.hostEffect e = some t) : HostKeeps s t := by
  cases e with
  | poke g b =>
    simp only [State.hostEffect, Option.some.injEq] at h
    subst h
    split
    · rename_i hg
      exact ⟨rfl, rfl, rfl, rfl, rfl, rfl, rfl, rfl, le_rfl, fun ht => ht, fun _ hm => Memory.wf_write b hg hm⟩
    · exact HostKeeps.refl s
  | appendPcb block segs =>
    simp only [State.hostEffect] at h
    split at h
    · rename_i hfit
      cases h
      have hend : s.pcbAddr (s.pcbCount + 1) ≤ s.cfg.memSize := by simpa [State.tableFits, State.pcbAddr] using hfit
      constructor
      case memory =>
        intro _ hm
        rw [State.appendPcb_mem, State.appendPcb_cfg]
        refine Memory.wf_writeBytes ?_ hm
        simp only [State.pcbAddr, pcbStride, PcbBlock.bytes_length] at hend ⊢
        omega
      case table => exact fun _ => hfit
      all_goals simp
    · cases h
  | setSegments pid segs => cases h; exact ⟨rfl, rfl, rfl, rfl, rfl, rfl, rfl, rfl, le_rfl, fun ht => ht, fun _ hm => hm⟩
  | driverQueues p r c => cases h; exact ⟨rfl, rfl, rfl, rfl, rfl, rfl, rfl, rfl, le_rfl, fun ht => ht, fun _ hm => hm⟩

theorem State.hostEffects_keeps : ∀ {es : List HostEffect} {s t : State}, s.hostEffects es = some t → HostKeeps s t
  | [], s, t, h => by cases h; exact HostKeeps.refl s
  | e :: es, s, t, h => by
    unfold State.hostEffects at h
    split at h
    · rename_i u hu
      exact (State.hostEffect_keeps hu).trans (State.hostEffects_keeps h)
    · cases h

/-- The host's move takes the answer, lets the host act, and returns from the trap. -/
theorem hostMove_next {s t : State} {k : TrapKind} (h : hostMove s k = .next t) :
    ∃ u, HostKeeps s.takeAnswer u ∧ t = u.trapReturn k s.hostAnswer.reply := by
  unfold hostMove at h
  split at h
  · rename_i u hu
    cases h
    exact ⟨u, State.hostEffects_keeps hu, rfl⟩
  · cases h

/-! ## Devices -/

/-- A poll keeps the registry's ports and their order (10_state.md R55). -/
theorem clockDrivers_ports : ∀ (ds : List Driver) (n : Nat), (clockDrivers n ds).2.1.map Driver.port = ds.map Driver.port
  | [], _ => rfl
  | d :: ds, n => by
    unfold clockDrivers
    split
    · simp [clockDrivers_ports ds (n + 1), Driver.afterClock]
    · simp [Driver.afterClock]

end Sys2Proof.Machine
end

