-- ==== Sys2Proof/Laws/Exec.lean ====
section
/-! SUPPORT. What EXECUTE can do, once for all instructions. -/

namespace Sys2Proof.Machine

/-- The shapes of an instruction's next state (40_engine_cycle.md R148, R149). -/
inductive ExecEffect (s : State) : State → Prop where
  /-- The step completes with another register file. -/
  | completes (f : RegFile) : ExecEffect s (s.setRegs f)
  /-- IN: the driver has been read, AX written. -/
  | reads (p : Byte) (g : Driver → Driver) (f : RegFile) (ring : s.ctx.ring = 0#8) :
      ExecEffect s ((s.callDriver p g).countDraw.setRegs f)
  /-- OUT: the driver has been written. -/
  | writes (p : Byte) (g : Driver → Driver) (f : RegFile) (ring : s.ctx.ring = 0#8) :
      ExecEffect s ((s.callDriver p g).setRegs f)
  /-- SYSCALL: the step is suspended. -/
  | suspends : ExecEffect s (s.trapCall .syscall (RegFile.vector s.ctx.regs))
  /-- A data fault. -/
  | memFault : ExecEffect s (s.stop .memFault)
  /-- A privileged instruction at a non-zero ring. -/
  | privFault (ring : s.ctx.ring ≠ 0#8) : ExecEffect s (s.stop .privFault)
  /-- IRET. -/
  | intDone (f : RegFile) (ring : s.ctx.ring = 0#8) : ExecEffect s ((s.setRegs f).stop .intDone)
  /-- A machine stop. -/
  | stops (r : FatalReason) : ExecEffect s (s.fatal r)

theorem ExecEffect.aluReg (s : State) (op : AluOp) (r : Reg16) (b len : Word) : ExecEffect s (s.aluReg op r b len) := by
  obtain ⟨f, hf, -⟩ := s.aluReg_eq op r b len
  exact hf ▸ .completes f

theorem ExecEffect.jumpIf (s : State) (c : Cond) (rel : Byte) : ExecEffect s (s.jumpIf c rel) := .completes _

theorem execInAx_next {s t : State} {p : Byte} (h : execInAx p s = .next t) : ExecEffect s t := by
  obtain ⟨hr, rfl⟩ | ⟨hr, rfl⟩ := State.atRing0_next h
  · split
    · exact .stops _
    · exact .reads p _ _ hr
  · exact .privFault hr

theorem execOutAx_next {s t : State} {p : Byte} (h : execOutAx p s = .next t) : ExecEffect s t := by
  obtain ⟨hr, rfl⟩ | ⟨hr, rfl⟩ := State.atRing0_next h
  · split
    · exact .stops _
    · exact .writes p _ _ hr
  · exact .privFault hr

theorem execMovAl_next {s t : State} {a : Word} (h : execMovAl a s = .next t) : ExecEffect s t := by
  unfold execMovAl at h
  split at h <;> cases h
  · exact .completes _
  · exact .memFault
  · exact .stops _

/-- Every instruction's next state has one of the shapes. -/
theorem exec_next {i : Instr} {s t : State} (h : exec i s = .next t) : ExecEffect s t := by
  cases i with
  | syscall => cases h; exact .suspends
  | addImm r b => cases h; exact .aluReg ..
  | orImm r b => cases h; exact .aluReg ..
  | andImm r b => cases h; exact .aluReg ..
  | subImm r b => cases h; exact .aluReg ..
  | xorImm r b => cases h; exact .aluReg ..
  | cmpImm r b => cases h; exact .aluReg ..
  | incReg r => cases h; exact .aluReg ..
  | decReg r => cases h; exact .aluReg ..
  | movImm r v => cases h; exact .completes _
  | movAl a => exact execMovAl_next h
  | inAx p => exact execInAx_next h
  | outAx p => exact execOutAx_next h
  | jmp d => cases h; exact .completes _
  | iret =>
    obtain ⟨hr, rfl⟩ | ⟨hr, rfl⟩ := State.atRing0_next h
    · exact .intDone _ hr
    · exact .privFault hr
  | hlt =>
    obtain ⟨hr, rfl⟩ | ⟨hr, rfl⟩ := State.atRing0_next h
    · exact .stops _
    · exact .privFault hr
  | jo d => cases h; exact .jumpIf ..
  | jno d => cases h; exact .jumpIf ..
  | jb d => cases h; exact .jumpIf ..
  | jnb d => cases h; exact .jumpIf ..
  | jz d => cases h; exact .jumpIf ..
  | jnz d => cases h; exact .jumpIf ..
  | jbe d => cases h; exact .jumpIf ..
  | ja d => cases h; exact .jumpIf ..
  | js d => cases h; exact .jumpIf ..
  | jns d => cases h; exact .jumpIf ..
  | jp d => cases h; exact .jumpIf ..
  | jnp d => cases h; exact .jumpIf ..
  | jl d => cases h; exact .jumpIf ..
  | jge d => cases h; exact .jumpIf ..
  | jle d => cases h; exact .jumpIf ..
  | jg d => cases h; exact .jumpIf ..

/-- What a turn of the engine can do: the budget is spent, the fetch faults, the bytes are no
instruction, or an instruction is executed (40_engine_cycle.md R141, R142). -/
theorem engineTurn_next {s t : State} (h : engineTurn s = .next t) :
    (s.cfg.quantum ≤ s.ctx.steps ∧ t = s.stop .quantumDone) ∨
    (s.ctx.steps < s.cfg.quantum ∧ t = s.countStep.fetchFault) ∨
    (s.ctx.steps < s.cfg.quantum ∧ ∃ r, t = s.countStep.fatal r) ∨
    (s.ctx.steps < s.cfg.quantum ∧ ∃ i, exec i (s.countStep.noteExecuted i) = .next t) := by
  unfold engineTurn at h
  split at h
  · rename_i hlt
    unfold runInstruction at h
    split at h
    · cases h; exact .inr (.inl ⟨hlt, rfl⟩)
    · split at h
      · cases h; exact .inr (.inr (.inl ⟨hlt, _, rfl⟩))
      · exact .inr (.inr (.inr ⟨hlt, _, h⟩))
  · cases h; exact .inl ⟨by omega, rfl⟩

end Sys2Proof.Machine
end

