-- ==== Sys2Proof/Laws/PerInstr.lean ====
section
/-! SUPPORT. Statements about every instruction as syntax, one lemma per constructor. -/

/-- The encoding has the length the opcode map gives, 1 to 3 bytes (30_encoding.md R110, R117). -/
def Sys2Proof.Laws.EncodedLength.Statement (i : Sys2Proof.Instr) : Prop :=
  (Sys2Proof.encode i).length = i.length ∧ 1 ≤ i.length ∧ i.length ≤ 3

theorem Sys2Proof.Laws.EncodedLength.syscall : Sys2Proof.Laws.EncodedLength.Statement (.syscall) := by simp [Sys2Proof.Laws.EncodedLength.Statement, Sys2Proof.encode, Sys2Proof.Instr.length]
theorem Sys2Proof.Laws.EncodedLength.jo (rel : Sys2Proof.Byte) : Sys2Proof.Laws.EncodedLength.Statement (.jo rel) := by simp [Sys2Proof.Laws.EncodedLength.Statement, Sys2Proof.encode, Sys2Proof.Instr.length]
theorem Sys2Proof.Laws.EncodedLength.jno (rel : Sys2Proof.Byte) : Sys2Proof.Laws.EncodedLength.Statement (.jno rel) := by simp [Sys2Proof.Laws.EncodedLength.Statement, Sys2Proof.encode, Sys2Proof.Instr.length]
theorem Sys2Proof.Laws.EncodedLength.jb (rel : Sys2Proof.Byte) : Sys2Proof.Laws.EncodedLength.Statement (.jb rel) := by simp [Sys2Proof.Laws.EncodedLength.Statement, Sys2Proof.encode, Sys2Proof.Instr.length]
theorem Sys2Proof.Laws.EncodedLength.jnb (rel : Sys2Proof.Byte) : Sys2Proof.Laws.EncodedLength.Statement (.jnb rel) := by simp [Sys2Proof.Laws.EncodedLength.Statement, Sys2Proof.encode, Sys2Proof.Instr.length]
theorem Sys2Proof.Laws.EncodedLength.jz (rel : Sys2Proof.Byte) : Sys2Proof.Laws.EncodedLength.Statement (.jz rel) := by simp [Sys2Proof.Laws.EncodedLength.Statement, Sys2Proof.encode, Sys2Proof.Instr.length]
theorem Sys2Proof.Laws.EncodedLength.jnz (rel : Sys2Proof.Byte) : Sys2Proof.Laws.EncodedLength.Statement (.jnz rel) := by simp [Sys2Proof.Laws.EncodedLength.Statement, Sys2Proof.encode, Sys2Proof.Instr.length]
theorem Sys2Proof.Laws.EncodedLength.jbe (rel : Sys2Proof.Byte) : Sys2Proof.Laws.EncodedLength.Statement (.jbe rel) := by simp [Sys2Proof.Laws.EncodedLength.Statement, Sys2Proof.encode, Sys2Proof.Instr.length]
theorem Sys2Proof.Laws.EncodedLength.ja (rel : Sys2Proof.Byte) : Sys2Proof.Laws.EncodedLength.Statement (.ja rel) := by simp [Sys2Proof.Laws.EncodedLength.Statement, Sys2Proof.encode, Sys2Proof.Instr.length]
theorem Sys2Proof.Laws.EncodedLength.js (rel : Sys2Proof.Byte) : Sys2Proof.Laws.EncodedLength.Statement (.js rel) := by simp [Sys2Proof.Laws.EncodedLength.Statement, Sys2Proof.encode, Sys2Proof.Instr.length]
theorem Sys2Proof.Laws.EncodedLength.jns (rel : Sys2Proof.Byte) : Sys2Proof.Laws.EncodedLength.Statement (.jns rel) := by simp [Sys2Proof.Laws.EncodedLength.Statement, Sys2Proof.encode, Sys2Proof.Instr.length]
theorem Sys2Proof.Laws.EncodedLength.jp (rel : Sys2Proof.Byte) : Sys2Proof.Laws.EncodedLength.Statement (.jp rel) := by simp [Sys2Proof.Laws.EncodedLength.Statement, Sys2Proof.encode, Sys2Proof.Instr.length]
theorem Sys2Proof.Laws.EncodedLength.jnp (rel : Sys2Proof.Byte) : Sys2Proof.Laws.EncodedLength.Statement (.jnp rel) := by simp [Sys2Proof.Laws.EncodedLength.Statement, Sys2Proof.encode, Sys2Proof.Instr.length]
theorem Sys2Proof.Laws.EncodedLength.jl (rel : Sys2Proof.Byte) : Sys2Proof.Laws.EncodedLength.Statement (.jl rel) := by simp [Sys2Proof.Laws.EncodedLength.Statement, Sys2Proof.encode, Sys2Proof.Instr.length]
theorem Sys2Proof.Laws.EncodedLength.jge (rel : Sys2Proof.Byte) : Sys2Proof.Laws.EncodedLength.Statement (.jge rel) := by simp [Sys2Proof.Laws.EncodedLength.Statement, Sys2Proof.encode, Sys2Proof.Instr.length]
theorem Sys2Proof.Laws.EncodedLength.jle (rel : Sys2Proof.Byte) : Sys2Proof.Laws.EncodedLength.Statement (.jle rel) := by simp [Sys2Proof.Laws.EncodedLength.Statement, Sys2Proof.encode, Sys2Proof.Instr.length]
theorem Sys2Proof.Laws.EncodedLength.jg (rel : Sys2Proof.Byte) : Sys2Proof.Laws.EncodedLength.Statement (.jg rel) := by simp [Sys2Proof.Laws.EncodedLength.Statement, Sys2Proof.encode, Sys2Proof.Instr.length]
theorem Sys2Proof.Laws.EncodedLength.addImm (rm : Sys2Proof.Reg16) (imm : Sys2Proof.Byte) : Sys2Proof.Laws.EncodedLength.Statement (.addImm rm imm) := by simp [Sys2Proof.Laws.EncodedLength.Statement, Sys2Proof.encode, Sys2Proof.Instr.length]
theorem Sys2Proof.Laws.EncodedLength.orImm (rm : Sys2Proof.Reg16) (imm : Sys2Proof.Byte) : Sys2Proof.Laws.EncodedLength.Statement (.orImm rm imm) := by simp [Sys2Proof.Laws.EncodedLength.Statement, Sys2Proof.encode, Sys2Proof.Instr.length]
theorem Sys2Proof.Laws.EncodedLength.andImm (rm : Sys2Proof.Reg16) (imm : Sys2Proof.Byte) : Sys2Proof.Laws.EncodedLength.Statement (.andImm rm imm) := by simp [Sys2Proof.Laws.EncodedLength.Statement, Sys2Proof.encode, Sys2Proof.Instr.length]
theorem Sys2Proof.Laws.EncodedLength.subImm (rm : Sys2Proof.Reg16) (imm : Sys2Proof.Byte) : Sys2Proof.Laws.EncodedLength.Statement (.subImm rm imm) := by simp [Sys2Proof.Laws.EncodedLength.Statement, Sys2Proof.encode, Sys2Proof.Instr.length]
theorem Sys2Proof.Laws.EncodedLength.xorImm (rm : Sys2Proof.Reg16) (imm : Sys2Proof.Byte) : Sys2Proof.Laws.EncodedLength.Statement (.xorImm rm imm) := by simp [Sys2Proof.Laws.EncodedLength.Statement, Sys2Proof.encode, Sys2Proof.Instr.length]
theorem Sys2Proof.Laws.EncodedLength.cmpImm (rm : Sys2Proof.Reg16) (imm : Sys2Proof.Byte) : Sys2Proof.Laws.EncodedLength.Statement (.cmpImm rm imm) := by simp [Sys2Proof.Laws.EncodedLength.Statement, Sys2Proof.encode, Sys2Proof.Instr.length]
theorem Sys2Proof.Laws.EncodedLength.movImm (r : Sys2Proof.Reg16) (imm : Sys2Proof.Word) : Sys2Proof.Laws.EncodedLength.Statement (.movImm r imm) := by simp [Sys2Proof.Laws.EncodedLength.Statement, Sys2Proof.encode, Sys2Proof.Instr.length]
theorem Sys2Proof.Laws.EncodedLength.movAl (moffs : Sys2Proof.Word) : Sys2Proof.Laws.EncodedLength.Statement (.movAl moffs) := by simp [Sys2Proof.Laws.EncodedLength.Statement, Sys2Proof.encode, Sys2Proof.Instr.length]
theorem Sys2Proof.Laws.EncodedLength.inAx (port : Sys2Proof.Byte) : Sys2Proof.Laws.EncodedLength.Statement (.inAx port) := by simp [Sys2Proof.Laws.EncodedLength.Statement, Sys2Proof.encode, Sys2Proof.Instr.length]
theorem Sys2Proof.Laws.EncodedLength.outAx (port : Sys2Proof.Byte) : Sys2Proof.Laws.EncodedLength.Statement (.outAx port) := by simp [Sys2Proof.Laws.EncodedLength.Statement, Sys2Proof.encode, Sys2Proof.Instr.length]
theorem Sys2Proof.Laws.EncodedLength.jmp (rel : Sys2Proof.Byte) : Sys2Proof.Laws.EncodedLength.Statement (.jmp rel) := by simp [Sys2Proof.Laws.EncodedLength.Statement, Sys2Proof.encode, Sys2Proof.Instr.length]
theorem Sys2Proof.Laws.EncodedLength.iret : Sys2Proof.Laws.EncodedLength.Statement (.iret) := by simp [Sys2Proof.Laws.EncodedLength.Statement, Sys2Proof.encode, Sys2Proof.Instr.length]
theorem Sys2Proof.Laws.EncodedLength.hlt : Sys2Proof.Laws.EncodedLength.Statement (.hlt) := by simp [Sys2Proof.Laws.EncodedLength.Statement, Sys2Proof.encode, Sys2Proof.Instr.length]
theorem Sys2Proof.Laws.EncodedLength.incReg (r : Sys2Proof.Reg16) : Sys2Proof.Laws.EncodedLength.Statement (.incReg r) := by simp [Sys2Proof.Laws.EncodedLength.Statement, Sys2Proof.encode, Sys2Proof.Instr.length]
theorem Sys2Proof.Laws.EncodedLength.decReg (r : Sys2Proof.Reg16) : Sys2Proof.Laws.EncodedLength.Statement (.decReg r) := by simp [Sys2Proof.Laws.EncodedLength.Statement, Sys2Proof.encode, Sys2Proof.Instr.length]

/-- Every instruction is well formed under x86; under none, all but INC and DEC (00_scope.md R12). -/
def Sys2Proof.Laws.WellFormedUnder.Statement (i : Sys2Proof.Instr) : Prop :=
  i.wf .x86 = true ∧ (i.wf .none = false ↔ Sys2Proof.opcodeByte i ∈ [0x40#8, 0x41#8, 0x42#8, 0x43#8, 0x44#8, 0x45#8, 0x46#8, 0x47#8, 0x48#8, 0x49#8, 0x4A#8, 0x4B#8, 0x4C#8, 0x4D#8, 0x4E#8, 0x4F#8])

theorem Sys2Proof.Laws.WellFormedUnder.syscall : Sys2Proof.Laws.WellFormedUnder.Statement (.syscall) := ⟨rfl, by simp [Sys2Proof.Instr.wf, Sys2Proof.opcodeByte, Sys2Proof.encode]⟩
theorem Sys2Proof.Laws.WellFormedUnder.jo (rel : Sys2Proof.Byte) : Sys2Proof.Laws.WellFormedUnder.Statement (.jo rel) := ⟨rfl, by simp [Sys2Proof.Instr.wf, Sys2Proof.opcodeByte, Sys2Proof.encode]⟩
theorem Sys2Proof.Laws.WellFormedUnder.jno (rel : Sys2Proof.Byte) : Sys2Proof.Laws.WellFormedUnder.Statement (.jno rel) := ⟨rfl, by simp [Sys2Proof.Instr.wf, Sys2Proof.opcodeByte, Sys2Proof.encode]⟩
theorem Sys2Proof.Laws.WellFormedUnder.jb (rel : Sys2Proof.Byte) : Sys2Proof.Laws.WellFormedUnder.Statement (.jb rel) := ⟨rfl, by simp [Sys2Proof.Instr.wf, Sys2Proof.opcodeByte, Sys2Proof.encode]⟩
theorem Sys2Proof.Laws.WellFormedUnder.jnb (rel : Sys2Proof.Byte) : Sys2Proof.Laws.WellFormedUnder.Statement (.jnb rel) := ⟨rfl, by simp [Sys2Proof.Instr.wf, Sys2Proof.opcodeByte, Sys2Proof.encode]⟩
theorem Sys2Proof.Laws.WellFormedUnder.jz (rel : Sys2Proof.Byte) : Sys2Proof.Laws.WellFormedUnder.Statement (.jz rel) := ⟨rfl, by simp [Sys2Proof.Instr.wf, Sys2Proof.opcodeByte, Sys2Proof.encode]⟩
theorem Sys2Proof.Laws.WellFormedUnder.jnz (rel : Sys2Proof.Byte) : Sys2Proof.Laws.WellFormedUnder.Statement (.jnz rel) := ⟨rfl, by simp [Sys2Proof.Instr.wf, Sys2Proof.opcodeByte, Sys2Proof.encode]⟩
theorem Sys2Proof.Laws.WellFormedUnder.jbe (rel : Sys2Proof.Byte) : Sys2Proof.Laws.WellFormedUnder.Statement (.jbe rel) := ⟨rfl, by simp [Sys2Proof.Instr.wf, Sys2Proof.opcodeByte, Sys2Proof.encode]⟩
theorem Sys2Proof.Laws.WellFormedUnder.ja (rel : Sys2Proof.Byte) : Sys2Proof.Laws.WellFormedUnder.Statement (.ja rel) := ⟨rfl, by simp [Sys2Proof.Instr.wf, Sys2Proof.opcodeByte, Sys2Proof.encode]⟩
theorem Sys2Proof.Laws.WellFormedUnder.js (rel : Sys2Proof.Byte) : Sys2Proof.Laws.WellFormedUnder.Statement (.js rel) := ⟨rfl, by simp [Sys2Proof.Instr.wf, Sys2Proof.opcodeByte, Sys2Proof.encode]⟩
theorem Sys2Proof.Laws.WellFormedUnder.jns (rel : Sys2Proof.Byte) : Sys2Proof.Laws.WellFormedUnder.Statement (.jns rel) := ⟨rfl, by simp [Sys2Proof.Instr.wf, Sys2Proof.opcodeByte, Sys2Proof.encode]⟩
theorem Sys2Proof.Laws.WellFormedUnder.jp (rel : Sys2Proof.Byte) : Sys2Proof.Laws.WellFormedUnder.Statement (.jp rel) := ⟨rfl, by simp [Sys2Proof.Instr.wf, Sys2Proof.opcodeByte, Sys2Proof.encode]⟩
theorem Sys2Proof.Laws.WellFormedUnder.jnp (rel : Sys2Proof.Byte) : Sys2Proof.Laws.WellFormedUnder.Statement (.jnp rel) := ⟨rfl, by simp [Sys2Proof.Instr.wf, Sys2Proof.opcodeByte, Sys2Proof.encode]⟩
theorem Sys2Proof.Laws.WellFormedUnder.jl (rel : Sys2Proof.Byte) : Sys2Proof.Laws.WellFormedUnder.Statement (.jl rel) := ⟨rfl, by simp [Sys2Proof.Instr.wf, Sys2Proof.opcodeByte, Sys2Proof.encode]⟩
theorem Sys2Proof.Laws.WellFormedUnder.jge (rel : Sys2Proof.Byte) : Sys2Proof.Laws.WellFormedUnder.Statement (.jge rel) := ⟨rfl, by simp [Sys2Proof.Instr.wf, Sys2Proof.opcodeByte, Sys2Proof.encode]⟩
theorem Sys2Proof.Laws.WellFormedUnder.jle (rel : Sys2Proof.Byte) : Sys2Proof.Laws.WellFormedUnder.Statement (.jle rel) := ⟨rfl, by simp [Sys2Proof.Instr.wf, Sys2Proof.opcodeByte, Sys2Proof.encode]⟩
theorem Sys2Proof.Laws.WellFormedUnder.jg (rel : Sys2Proof.Byte) : Sys2Proof.Laws.WellFormedUnder.Statement (.jg rel) := ⟨rfl, by simp [Sys2Proof.Instr.wf, Sys2Proof.opcodeByte, Sys2Proof.encode]⟩
theorem Sys2Proof.Laws.WellFormedUnder.addImm (rm : Sys2Proof.Reg16) (imm : Sys2Proof.Byte) : Sys2Proof.Laws.WellFormedUnder.Statement (.addImm rm imm) := ⟨rfl, by simp [Sys2Proof.Instr.wf, Sys2Proof.opcodeByte, Sys2Proof.encode]⟩
theorem Sys2Proof.Laws.WellFormedUnder.orImm (rm : Sys2Proof.Reg16) (imm : Sys2Proof.Byte) : Sys2Proof.Laws.WellFormedUnder.Statement (.orImm rm imm) := ⟨rfl, by simp [Sys2Proof.Instr.wf, Sys2Proof.opcodeByte, Sys2Proof.encode]⟩
theorem Sys2Proof.Laws.WellFormedUnder.andImm (rm : Sys2Proof.Reg16) (imm : Sys2Proof.Byte) : Sys2Proof.Laws.WellFormedUnder.Statement (.andImm rm imm) := ⟨rfl, by simp [Sys2Proof.Instr.wf, Sys2Proof.opcodeByte, Sys2Proof.encode]⟩
theorem Sys2Proof.Laws.WellFormedUnder.subImm (rm : Sys2Proof.Reg16) (imm : Sys2Proof.Byte) : Sys2Proof.Laws.WellFormedUnder.Statement (.subImm rm imm) := ⟨rfl, by simp [Sys2Proof.Instr.wf, Sys2Proof.opcodeByte, Sys2Proof.encode]⟩
theorem Sys2Proof.Laws.WellFormedUnder.xorImm (rm : Sys2Proof.Reg16) (imm : Sys2Proof.Byte) : Sys2Proof.Laws.WellFormedUnder.Statement (.xorImm rm imm) := ⟨rfl, by simp [Sys2Proof.Instr.wf, Sys2Proof.opcodeByte, Sys2Proof.encode]⟩
theorem Sys2Proof.Laws.WellFormedUnder.cmpImm (rm : Sys2Proof.Reg16) (imm : Sys2Proof.Byte) : Sys2Proof.Laws.WellFormedUnder.Statement (.cmpImm rm imm) := ⟨rfl, by simp [Sys2Proof.Instr.wf, Sys2Proof.opcodeByte, Sys2Proof.encode]⟩
theorem Sys2Proof.Laws.WellFormedUnder.movImm (r : Sys2Proof.Reg16) (imm : Sys2Proof.Word) : Sys2Proof.Laws.WellFormedUnder.Statement (.movImm r imm) := by cases r <;> exact ⟨rfl, by simp [Sys2Proof.Instr.wf, Sys2Proof.opcodeByte, Sys2Proof.encode, Sys2Proof.opcodeReg, Sys2Proof.reg16Index]⟩
theorem Sys2Proof.Laws.WellFormedUnder.movAl (moffs : Sys2Proof.Word) : Sys2Proof.Laws.WellFormedUnder.Statement (.movAl moffs) := ⟨rfl, by simp [Sys2Proof.Instr.wf, Sys2Proof.opcodeByte, Sys2Proof.encode]⟩
theorem Sys2Proof.Laws.WellFormedUnder.inAx (port : Sys2Proof.Byte) : Sys2Proof.Laws.WellFormedUnder.Statement (.inAx port) := ⟨rfl, by simp [Sys2Proof.Instr.wf, Sys2Proof.opcodeByte, Sys2Proof.encode]⟩
theorem Sys2Proof.Laws.WellFormedUnder.outAx (port : Sys2Proof.Byte) : Sys2Proof.Laws.WellFormedUnder.Statement (.outAx port) := ⟨rfl, by simp [Sys2Proof.Instr.wf, Sys2Proof.opcodeByte, Sys2Proof.encode]⟩
theorem Sys2Proof.Laws.WellFormedUnder.jmp (rel : Sys2Proof.Byte) : Sys2Proof.Laws.WellFormedUnder.Statement (.jmp rel) := ⟨rfl, by simp [Sys2Proof.Instr.wf, Sys2Proof.opcodeByte, Sys2Proof.encode]⟩
theorem Sys2Proof.Laws.WellFormedUnder.iret : Sys2Proof.Laws.WellFormedUnder.Statement (.iret) := ⟨rfl, by simp [Sys2Proof.Instr.wf, Sys2Proof.opcodeByte, Sys2Proof.encode]⟩
theorem Sys2Proof.Laws.WellFormedUnder.hlt : Sys2Proof.Laws.WellFormedUnder.Statement (.hlt) := ⟨rfl, by simp [Sys2Proof.Instr.wf, Sys2Proof.opcodeByte, Sys2Proof.encode]⟩
theorem Sys2Proof.Laws.WellFormedUnder.incReg (r : Sys2Proof.Reg16) : Sys2Proof.Laws.WellFormedUnder.Statement (.incReg r) := by cases r <;> exact ⟨rfl, by decide⟩
theorem Sys2Proof.Laws.WellFormedUnder.decReg (r : Sys2Proof.Reg16) : Sys2Proof.Laws.WellFormedUnder.Statement (.decReg r) := by cases r <;> exact ⟨rfl, by decide⟩
end

