-- ==== Sys2Proof/Laws/Scheduler.lean ====
section
/-! SUPPORT. What the scheduler's turns can do, once each, and what the writeback leaves in memory. -/

namespace Sys2Proof.Machine

/-- A word read inside a run of writes is made of the run's bytes. -/
theorem Memory.readWord_writeBytes_inside {size : Nat} (bs : List Byte) (m : Memory) (g k : Nat) (hk : k + 1 < bs.length)
    (hg : g + bs.length ≤ size) (hm : m.wf size = true) :
    (m.writeBytes g bs).readWord (g + k) = wordOfBytes bs[k] bs[k + 1] := by
  unfold Memory.readWord
  rw [Memory.read_writeBytes_inside bs m g k (by omega) hg hm, Nat.add_assoc,
    Memory.read_writeBytes_inside bs m g (k + 1) hk hg hm]

/-- The writeback leaves the given word in the block's status (60_exceptions.md R304). -/
theorem State.readWord_writebackMem_status {s : State} (w : Word) (hf : s.pcbAddr s.ctx.pcb + 28 ≤ s.cfg.memSize)
    (hm : s.mem.wf s.cfg.memSize = true) : (s.writebackMem w).readWord (s.pcbAddr s.ctx.pcb) = w := by
  have hi := Memory.readWord_writeBytes_inside [lowByte w, highByte w] s.mem (s.pcbAddr s.ctx.pcb) 0
    (by simp) (by simp only [List.length_cons, List.length_nil]; omega) hm
  have out : ∀ a, a < s.pcbAddr s.ctx.pcb + 8 → (s.writebackMem w).read a =
      (s.mem.writeBytes (s.pcbAddr s.ctx.pcb) [lowByte w, highByte w]).read a :=
    fun a ha => Memory.read_writeBytes_outside _ _ _ (.inl ha)
  simp only [Nat.add_zero, List.getElem_cons_zero, List.getElem_cons_succ, wordOfBytes_bytes] at hi
  refine Eq.trans ?_ hi
  unfold Memory.readWord
  rw [out _ (by omega), out _ (by omega)]

/-- The writeback leaves the register file's words in the block, in layout order (60_exceptions.md R304). -/
theorem State.readWord_writebackMem_reg {s : State} (w : Word) {j : Nat} {v : Word}
    (hf : s.pcbAddr s.ctx.pcb + 28 ≤ s.cfg.memSize) (hm : s.mem.wf s.cfg.memSize = true)
    (hv : (RegFile.words s.ctx.regs)[j]? = some v) :
    (s.writebackMem w).readWord (s.pcbAddr s.ctx.pcb + 8 + 2 * j) = v := by
  have hj : j < 10 := (List.getElem?_eq_some_iff.mp hv).1
  unfold State.writebackMem
  rw [Memory.readWord_writeBytes_inside (size := s.cfg.memSize) _ _ _ _ (by rw [RegFile.bytes_length]; omega)
    (by rw [RegFile.bytes_length]; omega)
    (Memory.wf_writeBytes (by simp only [List.length_cons, List.length_nil]; omega) hm)]
  interval_cases j <;> cases hv <;> exact wordOfBytes_bytes _

/-- A turn of the scheduler: a runnable member is loaded, another is skipped, or the next pass begins. -/
theorem scheduleTurn_next {s t : State} (h : scheduleTurn s = .next t) :
    (s.sched.members[s.sched.next]? = none ∧ t = { s.startPass with phase := if s.sched.ran then s.phase else .polling }) ∨
    (∃ n, s.sched.members[s.sched.next]? = some n ∧ s.hasPcb n = true ∧ s.runnable n = true ∧
      t = { s.nextMember true with ctx := s.contextOf n, phase := .running }) ∨
    (∃ n, s.sched.members[s.sched.next]? = some n ∧ s.hasPcb n = true ∧ s.runnable n = false ∧
      t = s.nextMember s.sched.ran) := by
  unfold scheduleTurn at h
  split at h
  · rename_i hn
    cases h
    refine .inl ⟨hn, ?_⟩
    cases s.sched.ran <;> rfl
  · rename_i n hn
    split at h
    · split at h <;> cases h
      · exact .inr (.inl ⟨n, hn, ‹_›, ‹_›, rfl⟩)
      · exact .inr (.inr ⟨n, hn, ‹_›, Bool.eq_false_iff.mpr ‹_›, rfl⟩)
    · cases h

/-- The end of a quantum writes back, then polls, or begins a machine stop for a fault at ring 0. -/
theorem endQuantum_next {s t : State} {sig : Signal} (h : endQuantum s sig = .next t) :
    s.hasPcb s.ctx.pcb = true ∧
      ((∃ w, t = { s.writeback w with phase := .polling }) ∨
        (t = s.fatal .kernelFault ∧ sig = .memFault ∧ s.ctx.ring = 0#8)) := by
  unfold endQuantum at h
  split at h
  · refine ⟨‹_›, ?_⟩
    split at h
    · cases h; exact .inl ⟨_, rfl⟩
    · cases h; exact .inl ⟨_, rfl⟩
    · rename_i hv
      cases h
      refine .inr ⟨rfl, ?_⟩
      unfold interpret at hv
      split at hv <;> try cases hv
      all_goals split at hv <;> cases hv
      exact ⟨rfl, ‹_›⟩
    · cases h
  · cases h

/-- A machine stop in an invocation writes back first. -/
theorem stopTurn_next {s t : State} {r : FatalReason} (h : stopTurn s r = .next t) :
    s.hasPcb s.ctx.pcb = true ∧ t = (s.writeback s.ctx.statusWord).stopMachine r := by
  unfold stopTurn at h
  split at h <;> cases h
  exact ⟨‹_›, rfl⟩

/-- A poll changes the drivers, the draws, the waiting flag, the phase and the machine's status only. -/
theorem pollTurn_next {s t : State} (h : pollTurn s = .next t) :
    ∃ ds n, (t = { s with drivers := ds, draws := n, waiting := t.waiting, phase := .schedule }) ∨
      (∃ r, t = State.stopMachine { s with drivers := ds, draws := n } r) ∨
      t = State.trapCall { s with drivers := ds, draws := n } .shutdown zeroVector := by
  unfold pollTurn at h
  split at h
  · refine ⟨(clockDrivers s.draws s.drivers).2.1, (clockDrivers s.draws s.drivers).2.2, ?_⟩
    simp only at h
    split at h <;> cases h
    · exact .inl rfl
    · exact .inr (.inl ⟨_, rfl⟩)
    · exact .inr (.inr rfl)
  · cases h

end Sys2Proof.Machine
end

