-- ==== Sys2Proof/Tests/Slice0.lean ====
section
/-! SUPPORT. Small tests. Expected results are those of spec/95_test_vectors.md (named by their number there)
or worked out by hand from the cited rule. The `test_witness_…` theorems show that each obligation's
hypotheses are met together by a concrete state and operands. -/

open Sys2Proof Sys2Proof.Machine

namespace Sys2Proof.Tests

/-! ## Helpers -/

/-- The decoder answers this instruction. -/
def decodesTo (p : IncDecOpcodes) (bs : List Byte) (i : Instr) : Bool :=
  match decode p bs with
  | .ok j => j == i
  | .error _ => false

/-- The decoder rejects the bytes for this reason. -/
def rejectsAs (p : IncDecOpcodes) (bs : List Byte) (r : Reject) : Bool :=
  match decode p bs with
  | .ok _ => false
  | .error q => q == r

/-- A register file of zeros. -/
def zeros : RegFile := resetRegs

/-- One process at a ring in its quantum: a code segment (0x100, 0, 0x10, 0b101) with these bytes, a data
segment (0x400, 0x1000, 0x10, 0b100) with 0x2A at 0x405, and a driver at port 0x10 that will return
0x41, then the empty sentinel. -/
def quantumState (ring : Byte) (f : RegFile) (bs : List Byte) : State :=
  { State.reset with
    cfg := { resetConfig with incdec := .x86, quantum := 4 }
    mem := (Memory.writeBytes [] 0x100 bs).write 0x405 0x2A
    pcbCount := 1
    drivers := [{ port := 0x10, reads := [some 0x41, none], clocks := [0, 0], written := [] }]
    phase := .running
    ctx := { resetCtx with
      ring := ring
      segs := [{ globalStart := 0x100, localStart := 0, size := 0x10, perms := 5 },
        { globalStart := 0x400, localStart := 0x1000, size := 0x10, perms := 4 },
        { globalStart := 0xFFFF, localStart := 0x2000, size := 2, perms := 4 }]
      statusWord := 1
      regs := f } }

/-- AX, FLAGS and IP of an outcome. -/
def axFlagsIp (o : Outcome) : Option (Word × Word × Word) :=
  (nextState? o).map (fun t => (t.reg .ax, t.flags, t.ip))

/-- IP of an outcome. -/
def ipAfter (o : Outcome) : Option Word := (nextState? o).map State.ip

/-- The phase of an outcome. -/
def phaseAfter (o : Outcome) : Option Phase := (nextState? o).map State.phase

/-- The machine status of an outcome. -/
def machineAfter (o : Outcome) : Option MachineStatus := (nextState? o).map State.machine

/-- The fault of an outcome. -/
def faultOf : Outcome → Option Fault
  | .next _ => none
  | .fault f => some f
  | .refused _ => none

/-- The refusal of an outcome. -/
def refusalOf : Outcome → Option Refusal
  | .next _ => none
  | .fault _ => none
  | .refused r => some r

/-- IP after a jump at 0x0100 with displacement 5 and these FLAGS. -/
def jumpIp (mk : Byte → Instr) (flags : Word) : Option Word :=
  ipAfter (exec (mk 0x05) (quantumState 3 { zeros with ip := 0x0100, flags := flags } []))

/-- A process block. -/
def block (status : Word) (ring : Byte) (pid : Word) : PcbBlock :=
  { status := status, moduleId := 9, ring := ring, pid := pid, parent := 0x0102, regs := { zeros with ax := 0x1234, ip := 0x0005, flags := 0x0044 } }

/-- A launch of blocks at PCB_BASE 0x0800 (program F of 95_test_vectors.md). -/
def launchOf (blocks : List PcbBlock) (drivers : List Driver) : Launch where
  cfg := { resetConfig with pcbBase := 0x800, quantum := 4, traceLen := 2 }
  drivers := drivers
  image := [(0x100, 0x83), (0x101, 0xC0), (0x102, 0x01)]
  segTable := [(0, [{ globalStart := 0x100, localStart := 0, size := 0x10, perms := 5 }]),
    (1, [{ globalStart := 0x200, localStart := 0, size := 0x10, perms := 5 }])]
  pcbs := blocks

/-- A driver with these clock results. -/
def clocked (port : Byte) (cs : List Int) : Driver := { port := port, reads := [], clocks := cs, written := [] }

/-- A two-process launch whose first process has exited. -/
def exitedThenRunnable : State := State.launch (launchOf [block 7 3 0, block 1 3 1] [clocked 0 [0]])

/-- The same with the first process at the end of its quantum. -/
def returned (ring : Byte) (sig : Signal) : State :=
  { State.launch (launchOf [block 1 ring 0, block 1 3 1] [clocked 0 [0]]) with
    phase := .returned sig
    ctx := { resetCtx with pcb := 0, ring := ring, statusWord := 1, regs := { zeros with ax := 0x0E41, ip := 0x000D } } }

/-- The same at its poll, with these drivers. -/
def polling (ds : List Driver) : State := { State.launch (launchOf [block 1 3 0] ds) with phase := .polling }

/-! ## Well-formedness: each check refuses an ill-formed term -/

theorem test_wf_instr : Instr.wf .none (.incReg .ax) = false ∧ Instr.wf .none (.decReg .di) = false ∧
    Instr.wf .x86 (.incReg .ax) = true ∧ Instr.wf .none (.movAl 0xFFFF) = true := by decide

theorem test_wf_statusCode :
    StatusCode.wf { resetConfig.statusCode with run := 7 } = false ∧
    StatusCode.wf { resetConfig.statusCode with sleep := 5 } = false ∧
    StatusCode.wf { resetConfig.statusCode with exitListed := [(3, 2)] } = false ∧
    StatusCode.wf { resetConfig.statusCode with exitRest := [9, 2] } = false ∧
    StatusCode.wf { resetConfig.statusCode with exitRest := [9, 10] } = true ∧
    StatusCode.wf { resetConfig.statusCode with faultPriv := 5 } = false ∧
    StatusCode.wf resetConfig.statusCode = true := by decide

theorem test_wf_config : Config.wf { resetConfig with memSize := 0 } = false ∧
    Config.wf { resetConfig with quantum := 0 } = false ∧
    Config.wf { resetConfig with statusCode := { resetConfig.statusCode with none := 6 } } = false ∧
    Config.wf resetConfig = true := by decide

theorem test_wf_launch :
    (launchOf [] [clocked 1 [], clocked 1 []]).portsDistinct = false ∧
    Launch.tableFits { launchOf [block 1 0 0] [] with cfg := { resetConfig with pcbBase := 65509 } } = false ∧
    Launch.tableFits { launchOf [block 1 0 0] [] with cfg := { resetConfig with pcbBase := 65508 } } = true ∧
    Launch.imageFits { launchOf [] [] with image := [(65536, 1)] } = false ∧
    Launch.wf { launchOf [] [] with image := [(65536, 1)] } = false ∧
    (launchOf [block 1 3 0, block 1 3 1] [clocked 0 [0]]).wf = true := by decide

/-! ## Decoding: a word for every constructor, written out from 30_encoding.md R113, R117 -/

theorem test_decode_system : decodesTo .none [0b00001111, 0b00000101] .syscall = true ∧
    decodesTo .none [0b11100101, 0x10] (.inAx 0x10) = true ∧ decodesTo .none [0b11100111, 0x99] (.outAx 0x99) = true ∧
    decodesTo .none [0b11001111] .iret = true ∧ decodesTo .none [0b11110100] .hlt = true := by decide

theorem test_decode_jumps_low : decodesTo .none [0b01110000, 5] (.jo 5) = true ∧ decodesTo .none [0b01110001, 5] (.jno 5) = true ∧
    decodesTo .none [0b01110010, 5] (.jb 5) = true ∧ decodesTo .none [0b01110011, 5] (.jnb 5) = true ∧
    decodesTo .none [0b01110100, 5] (.jz 5) = true ∧ decodesTo .none [0b01110101, 5] (.jnz 5) = true ∧
    decodesTo .none [0b01110110, 5] (.jbe 5) = true ∧ decodesTo .none [0b01110111, 5] (.ja 5) = true := by decide

theorem test_decode_jumps_high : decodesTo .none [0b01111000, 5] (.js 5) = true ∧ decodesTo .none [0b01111001, 5] (.jns 5) = true ∧
    decodesTo .none [0b01111010, 5] (.jp 5) = true ∧ decodesTo .none [0b01111011, 5] (.jnp 5) = true ∧
    decodesTo .none [0b01111100, 5] (.jl 5) = true ∧ decodesTo .none [0b01111101, 5] (.jge 5) = true ∧
    decodesTo .none [0b01111110, 5] (.jle 5) = true ∧ decodesTo .none [0b01111111, 5] (.jg 5) = true ∧
    decodesTo .none [0b11101011, 0xFE] (.jmp 0xFE) = true := by decide

/-- 0x83 `11 ggg mmm`: E3, I2–I6. -/
theorem test_decode_alu : decodesTo .none [0x83, 0b11000011, 0x05] (.addImm .bx 0x05) = true ∧
    decodesTo .none [0x83, 0b11001001, 0x80] (.orImm .cx 0x80) = true ∧
    decodesTo .none [0x83, 0b11100010, 0x0F] (.andImm .dx 0x0F) = true ∧
    decodesTo .none [0x83, 0b11101011, 0x01] (.subImm .bx 0x01) = true ∧
    decodesTo .none [0x83, 0b11110110, 0xFF] (.xorImm .si 0xFF) = true ∧
    decodesTo .none [0x83, 0b11111000, 0x05] (.cmpImm .ax 0x05) = true := by decide

/-- `01000rrr`, `01001rrr` and `10111rrr`; E7, E9, D4. -/
theorem test_decode_registers : decodesTo .x86 [0b01000000] (.incReg .ax) = true ∧ decodesTo .x86 [0b01001111] (.decReg .di) = true ∧
    decodesTo .none [0b10111100, 0xFE, 0xFF] (.movImm .sp 0xFFFE) = true ∧
    decodesTo .none [0b10111101, 0x34, 0x12] (.movImm .bp 0x1234) = true ∧
    decodesTo .none [0b10100000, 0x05, 0x10] (.movAl 0x1005) = true := by decide

/-- E2, E4, E8–E12. -/
theorem test_decode_undecodable : rejectsAs .none [0x0F, 0x04] .undecodable = true ∧ rejectsAs .none [0x83, 0x03, 0x05] .undecodable = true ∧
    rejectsAs .none [0xA1, 0x00, 0x10] .undecodable = true ∧ rejectsAs .none [0x40] .undecodable = true ∧
    rejectsAs .none [0x90] .undecodable = true ∧ rejectsAs .none [0x00] .undecodable = true ∧
    rejectsAs .none [0xE6, 0x10] .undecodable = true := by decide

/-- E5, E6. -/
theorem test_decode_alu_op : rejectsAs .none [0x83, 0xD0, 0x01] .unknownAluOp = true ∧
    rejectsAs .none [0x83, 0xD8, 0x01] .unknownAluOp = true ∧ rejectsAs .none [0x83, 0xC0] .truncated = true := by decide

/-- The rows SYSCALL, JZ, ADD, MOV r16 and INC of spec/opcode_table.json, as its match words number them. -/
theorem test_table_words : decodeTableWord 16 0x0F05 = some .syscall ∧ decodeTableWord 16 0x7405 = some (.jz 0x05) ∧
    decodeTableWord 24 0x83C305 = some (.addImm .bx 0x05) ∧ decodeTableWord 24 0xB83412 = some (.movImm .ax 0x1234) ∧
    decodeTableWord 8 0x47 = some (.incReg .di) ∧ decodeTableWord 8 0x90 = none := by decide

/-! ## Register file and MMU -/

/-- RF1, RF2, RF3, RF5. -/
theorem test_register_writes : (zeros.writeName (.gen .ax) 0x12345).ax = 0x2345 ∧
    (RegFile.writeName { zeros with ax := 0x1234 } (.sub .al) 0x1FF).ax = 0x12FF ∧
    (RegFile.writeName { zeros with ax := 0x1234 } (.sub .ah) 0xAB).ax = 0xAB34 ∧
    phaseAfter (State.reset.readIdent (.word 10) (fun _ => .next State.reset)) =
      some (.stopping .regUnknown) := by decide

/-- RF4, RF6. -/
theorem test_register_bytes : RegFile.readAndIncrementIp { zeros with ip := 0xFFFF } = (0xFFFF, { zeros with ip := 0 }) ∧
    RegFile.bytes { zeros with ax := 0x1234, ip := 0x0005, flags := 0x0044 } =
      [0x34, 0x12, 0, 0, 0, 0, 0, 0, 0, 0, 0, 0, 0, 0, 0, 0, 0x05, 0x00, 0x44, 0x00] := by decide

/-- The segment list of 95_test_vectors.md section 2.2. -/
def segsT : List Segment := [⟨0x100, 0x000, 0x10, 6⟩, ⟨0x200, 0x010, 0x10, 5⟩]

/-- S3, S4, S5, M1–M7. -/
theorem test_translate : translate segsT 0x005 maskRead = some 0x105 ∧ translate segsT 0x005 maskExecute = none ∧
    translate segsT 0x020 0 = none ∧ translate segsT 0x00F maskRead = some 0x10F ∧ translate segsT 0x010 maskRead = some 0x200 ∧
    translate segsT 0x010 maskWrite = none ∧ translate segsT 0x01F maskExecute = some 0x20F ∧
    translate segsT 0x005 6 = some 0x105 ∧ translate segsT 0x005 5 = none ∧ translate segsT 0x005 0 = some 0x105 := by decide

/-- M8–M12. -/
theorem test_translate_first_match : translate [⟨0x100, 0, 0x10, 1⟩, ⟨0x300, 0, 0x10, 4⟩] 0x005 maskRead = none ∧
    translate [⟨0x100, 0, 0x10, 1⟩, ⟨0x300, 0, 0x10, 4⟩] 0x005 maskExecute = some 0x105 ∧
    translate [⟨0x100, 0x20, 0, 7⟩] 0x020 maskRead = none ∧ translate [] 0 0 = none ∧
    translate [⟨0x1000, 0xFFF0, 0x10, 5⟩] 0xFFFE maskExecute = some 0x100E := by decide

/-- A write of the unlisted value removes the cell; the order is by address. -/
theorem test_memory_canonical : (Memory.writeBytes [] 5 [1, 2]).write 5 0 = [(6, 2)] ∧
    (Memory.write [(6, 2)] 3 7) = [(3, 7), (6, 2)] ∧ Memory.wf 10 [(3, 7), (6, 2)] = true ∧
    Memory.wf 10 [(6, 2), (3, 7)] = false ∧ Memory.wf 10 [(3, 0)] = false ∧ Memory.wf 6 [(6, 2)] = false ∧
    Memory.readWord [(5, 0x34), (6, 0x12)] 5 = 0x1234 := by decide

/-! ## ALU at width 8: A27, A28, A29 -/

theorem test_alu_byte : (aluApply .add 0xFF#8 0x01#8 (flagBits 0)) = ⟨0x00, 0x01, ⟨true, true, true, false, false⟩⟩ ∧
    (aluApply .add 0x7F#8 0x01#8 (flagBits 0)) = ⟨0x80, 0x01, ⟨false, false, false, true, true⟩⟩ ∧
    (aluApply .sub 0x00#8 0x01#8 (flagBits 0)) = ⟨0xFF, 0x01, ⟨true, true, false, true, false⟩⟩ := by decide

/-- A3, A11, A12, A15. -/
theorem test_alu_word : (aluApply .add 0x8000#16 0x8000#16 (flagBits 0)).flags = ⟨true, true, true, false, true⟩ ∧
    (aluApply .sub 0x7FFF#16 0xFFFF#16 (flagBits 0)) = ⟨0x8000, 0xFFFF, ⟨true, true, false, true, true⟩⟩ ∧
    (aluApply .sub 0x0001#16 0x8000#16 (flagBits 0)) = ⟨0x8001, 0x8000, ⟨true, false, false, true, true⟩⟩ ∧
    (aluApply .cmp 0x8000#16 0x0001#16 (flagBits 0)) = ⟨0x8000, 0x0001, ⟨false, true, false, false, true⟩⟩ := by decide

/-! ## Instructions: I1–I11 -/

theorem test_add : axFlagsIp (exec (.addImm .ax 0x01) (quantumState 3 { zeros with ax := 0x7FFF } [])) = some (0x8000, 0x0884, 3) ∧
    axFlagsIp (exec (.addImm .ax 0x01) (quantumState 3 { zeros with ax := 0xFFFF, flags := 0xF002 } [])) = some (0, 0xF047, 3) := by decide

theorem test_add_sp : (nextState? (exec (.addImm .sp 0x02) (quantumState 3 { zeros with sp := 0xFFFF } []))).map
    (fun t => (t.reg .sp, t.flags)) = some (0x0001, 0x0001) := by decide

theorem test_or : (nextState? (exec (.orImm .cx 0x80) (quantumState 3 { zeros with cx := 0x0001 } []))).map
    (fun t => (t.reg .cx, t.flags)) = some (0xFF81, 0x0084) := by decide

theorem test_and : (nextState? (exec (.andImm .dx 0x0F) (quantumState 3 { zeros with dx := 0x1234 } []))).map
    (fun t => (t.reg .dx, t.flags)) = some (0x0004, 0x0000) ∧
    axFlagsIp (exec (.andImm .ax 0x00) (quantumState 3 { zeros with ax := 0x1234, flags := 0x0801 } [])) = some (0, 0x0044, 3) := by decide

theorem test_sub : (nextState? (exec (.subImm .bx 0x01) (quantumState 3 zeros []))).map
    (fun t => (t.reg .bx, t.flags)) = some (0xFFFF, 0x0085) := by decide

theorem test_xor : (nextState? (exec (.xorImm .si 0xFF) (quantumState 3 { zeros with si := 0x00FF } []))).map
    (fun t => (t.reg .si, t.flags)) = some (0xFF00, 0x0084) := by decide

theorem test_cmp : axFlagsIp (exec (.cmpImm .ax 0x05) (quantumState 3 { zeros with ax := 0x0003 } [])) =
    some (0x0003, 0x0081, 3) := by decide

theorem test_inc : axFlagsIp (exec (.incReg .ax) (quantumState 3 { zeros with ax := 0xFFFF, flags := 0x0001 } [])) =
    some (0x0000, 0x0045, 1) := by decide

theorem test_dec : (nextState? (exec (.decReg .di) (quantumState 3 { zeros with di := 0x8000 } []))).map
    (fun t => (t.reg .di, t.flags)) = some (0x7FFF, 0x0804) := by decide

/-! ## Jumps: 95_test_vectors.md section 2.5 -/

theorem test_jo : jumpIp .jo 0x0800 = some 0x0107 ∧ jumpIp .jo 0 = some 0x0102 := by decide
theorem test_jno : jumpIp .jno 0 = some 0x0107 ∧ jumpIp .jno 0x0800 = some 0x0102 := by decide
theorem test_jb : jumpIp .jb 0x0001 = some 0x0107 ∧ jumpIp .jb 0 = some 0x0102 := by decide
theorem test_jnb : jumpIp .jnb 0 = some 0x0107 ∧ jumpIp .jnb 0x0001 = some 0x0102 := by decide
theorem test_jz : jumpIp .jz 0x0040 = some 0x0107 ∧ jumpIp .jz 0 = some 0x0102 := by decide
theorem test_jnz : jumpIp .jnz 0 = some 0x0107 ∧ jumpIp .jnz 0x0040 = some 0x0102 := by decide
theorem test_jbe : jumpIp .jbe 0x0001 = some 0x0107 ∧ jumpIp .jbe 0x0040 = some 0x0107 ∧ jumpIp .jbe 0 = some 0x0102 := by decide
theorem test_ja : jumpIp .ja 0 = some 0x0107 ∧ jumpIp .ja 0x0001 = some 0x0102 ∧ jumpIp .ja 0x0040 = some 0x0102 := by decide
theorem test_js : jumpIp .js 0x0080 = some 0x0107 ∧ jumpIp .js 0 = some 0x0102 := by decide
theorem test_jns : jumpIp .jns 0 = some 0x0107 ∧ jumpIp .jns 0x0080 = some 0x0102 := by decide
theorem test_jp : jumpIp .jp 0x0004 = some 0x0107 ∧ jumpIp .jp 0 = some 0x0102 := by decide
theorem test_jnp : jumpIp .jnp 0 = some 0x0107 ∧ jumpIp .jnp 0x0004 = some 0x0102 := by decide
theorem test_jl : jumpIp .jl 0x0080 = some 0x0107 ∧ jumpIp .jl 0x0800 = some 0x0107 ∧ jumpIp .jl 0x0880 = some 0x0102 ∧
    jumpIp .jl 0 = some 0x0102 := by decide
theorem test_jge : jumpIp .jge 0 = some 0x0107 ∧ jumpIp .jge 0x0880 = some 0x0107 ∧ jumpIp .jge 0x0080 = some 0x0102 ∧
    jumpIp .jge 0x0800 = some 0x0102 := by decide
theorem test_jle : jumpIp .jle 0x0040 = some 0x0107 ∧ jumpIp .jle 0x0080 = some 0x0107 ∧ jumpIp .jle 0 = some 0x0102 ∧
    jumpIp .jle 0x0880 = some 0x0102 := by decide
theorem test_jg : jumpIp .jg 0 = some 0x0107 ∧ jumpIp .jg 0x0880 = some 0x0107 ∧ jumpIp .jg 0x0040 = some 0x0102 ∧
    jumpIp .jg 0x0800 = some 0x0102 := by decide

/-- J1–J3. -/
theorem test_jump_wraps : ipAfter (exec (.jz 0x05) (quantumState 3 { zeros with ip := 0xFFFE, flags := 0x0040 } [])) = some 0x0005 ∧
    ipAfter (exec (.jz 0x05) (quantumState 3 { zeros with ip := 0xFFFE } [])) = some 0x0000 ∧
    ipAfter (exec (.jnz 0xFE) (quantumState 3 { zeros with ip := 0x0040 } [])) = some 0x0040 := by decide

/-- J4–J7. -/
theorem test_jmp : ipAfter (exec (.jmp 0xFE) (quantumState 3 { zeros with ip := 0x0200 } [])) = some 0x0200 ∧
    ipAfter (exec (.jmp 0x80) (quantumState 3 zeros [])) = some 0xFF82 ∧
    ipAfter (exec (.jmp 0x7F) (quantumState 3 { zeros with ip := 0xFFF0 } [])) = some 0x0071 ∧
    ipAfter (exec (.jmp 0xF0) (quantumState 3 { zeros with ip := 0x0010 } [])) = some 0x0002 := by decide

/-! ## Data movement: D1, D2, D4–D6 -/

theorem test_mov_imm : axFlagsIp (exec (.movImm .ax 0x1234) (quantumState 3 { zeros with flags := 0x0045 } [])) =
      some (0x1234, 0x0045, 3) ∧
    (nextState? (exec (.movImm .di 0xFFFF) (quantumState 3 zeros []))).map (fun t => t.reg .di) = some 0xFFFF := by decide

theorem test_mov_al : axFlagsIp (exec (.movAl 0x1005) (quantumState 3 { zeros with ax := 0x1200, flags := 0x0045 } [])) =
    some (0x122A, 0x0045, 3) := by decide

/-- D6; BOUNDS one past the memory (43_data_movement.md R241). -/
theorem test_mov_al_faults :
    nextState? (exec (.movAl 0x3000) (quantumState 3 zeros [])) =
      some { quantumState 3 zeros [] with phase := .returned .memFault } ∧
    nextState? (exec (.movAl 0x2001) (quantumState 3 zeros [])) =
      some { quantumState 3 zeros [] with phase := .stopping .bounds } := by decide

/-! ## System instructions: Y1–Y9 -/

/-- The registers of Y1. -/
def presented : RegFile := { zeros with ax := 0x0E41, bx := 2, cx := 3, dx := 4, si := 5, di := 6, sp := 0x77, ip := 8 }

theorem test_syscall_presents : phaseAfter (exec .syscall (quantumState 3 presented [])) =
    some (.suspended .syscall ⟨0x0E41, 2, 3, 4, 5, 6⟩) ∧
    axFlagsIp (exec .syscall (quantumState 3 presented [])) = some (0x0E41, 0, 8) := by decide

/-- A state suspended at a SYSCALL, with this answer to come. -/
def suspendedWith (a : TrapAnswer) : State :=
  { quantumState 3 presented [] with phase := .suspended .syscall ⟨0x0E41, 2, 3, 4, 5, 6⟩, answers := [a] }

/-- Y1 with other values, and a byte the host writes meanwhile. -/
theorem test_syscall_resumes : (nextState? (step (suspendedWith ⟨[.poke 0x405 0x99], .resume ⟨11, 12, 13, 14, 15, 16⟩⟩))).map
    (fun t => (t.ctx.regs, t.phase, t.mem.read 0x405)) =
      some ({ ax := 11, cx := 13, dx := 14, bx := 12, sp := 0x77, bp := 0, si := 15, di := 16, ip := 10, flags := 0 },
        .running, 0x99) := by decide

/-- Y2. -/
theorem test_syscall_aborts : (nextState? (step (suspendedWith ⟨[], .abort 7⟩))).map (fun t => (t.ctx.regs, t.phase)) =
    some (presented, .returned (.syscallAbort 7)) := by decide

/-- Y3, Y6. -/
theorem test_in : axFlagsIp (exec (.inAx 0x10) (quantumState 0 { zeros with ax := 0xFFFF } [])) = some (0x0041, 0, 2) ∧
    phaseAfter (exec (.inAx 0x99) (quantumState 0 zeros [])) = some (.stopping .unmappedPort) := by decide

/-- Y5. -/
theorem test_out : (nextState? (exec (.outAx 0x10) (quantumState 0 { zeros with ax := 0x1242 } []))).map
    (fun t => (t.reg .ax, t.ip, t.drivers.map Driver.written)) = some (0x1242, 2, [[0x42]]) := by decide

/-- Y8. -/
theorem test_iret : (nextState? (exec .iret (quantumState 0 { zeros with ip := 0x0007 } []))).map (fun t => (t.ip, t.phase)) =
    some (0x0008, .returned .intDone) := by decide

/-- Y9: IP not advanced, FATAL with the dump after the block's writeback (decision D30: R303). -/
theorem test_hlt : nextState? (exec .hlt (quantumState 0 { zeros with ip := 0x0003 } [])) =
      some { quantumState 0 { zeros with ip := 0x0003 } [] with phase := .stopping .halt } ∧
    (nextState? (step { quantumState 0 { zeros with ip := 0x0003 } [] with phase := .stopping .halt })).map
      (fun t => (t.machine, t.pcbStatus 0, (t.pcbRegs 0).ip)) =
      some (.fatal .halt ⟨{ zeros with ip := 0x0003 }, []⟩, 1, 0x0003) := by decide

/-- Y7. -/
theorem test_privileged : [Instr.inAx 0x10, .outAx 0x10, .iret, .hlt].map (fun i => phaseAfter (exec i (quantumState 3 zeros []))) =
    List.replicate 4 (some (.returned .privFault)) := by decide

/-! ## The engine's loop -/

/-- S9, first step, with the opcode traced and the step counted. -/
theorem test_step_runs : (nextState? (step (quantumState 3 zeros [0xB8, 0x34, 0x12]))).map
    (fun t => (t.reg .ax, t.ip, t.ctx.trace, t.ctx.steps)) = some (0x1234, 3, [0xB8], 1) := by decide

/-- X1 and X2, the fetch. -/
theorem test_step_fetch_fault :
    phaseAfter (step (quantumState 3 { zeros with ip := 0x0012 } [])) = some (.suspended .fetchFault zeroVector) ∧
    phaseAfter (step (quantumState 0 { zeros with ip := 0x0012 } [])) = some (.returned .memFault) := by decide

/-- E11 at a user ring; X4's last turn. -/
theorem test_step_ends :
    phaseAfter (step (quantumState 3 zeros [0x00])) = some (.stopping .decode) ∧
    machineAfter (step { quantumState 3 zeros [0x00] with phase := .stopping .decode }) = some (.fatal .decode ⟨zeros, []⟩) ∧
    phaseAfter (step { quantumState 3 zeros [] with ctx := { (quantumState 3 zeros []).ctx with steps := 4 } }) =
      some (.returned .quantumDone) := by decide

/-- An instruction cut by the end of the memory is BOUNDS, a shorter one there runs (decision D35). -/
theorem test_step_memory_end :
    phaseAfter (step { quantumState 3 { zeros with ip := 1 } [] with
      mem := [(0xFFFF, 0x83)], ctx := { resetCtx with segs := [⟨0xFFFE, 0, 2, 1⟩], regs := { zeros with ip := 1 } } }) =
      some (.stopping .bounds) ∧
    ipAfter (step { quantumState 3 zeros [] with
      mem := [(0xFFFF, 0x40)], ctx := { resetCtx with segs := [⟨0xFFFE, 0, 2, 1⟩], regs := { zeros with ip := 1 } } }) =
      some 2 := by decide

/-- The word of an opcode-table row runs as the first instruction after reset. -/
theorem test_withFetchWord : axFlagsIp (step (State.reset.withFetchWord 24 0xB83412)) = some (0x1234, 0, 3) ∧
    axFlagsIp (step (State.reset.withFetchWord 8 0x40)) = some (1, 0, 1) ∧
    phaseAfter (step (State.reset.withFetchWord 16 0x0F05)) = some (.suspended .syscall zeroVector) := by decide

/-! ## Scheduler and devices -/

/-- X5: the exited process is skipped, the next one loaded from its block. -/
theorem test_schedule_skips : (nextState? (step exitedThenRunnable)).map (fun t => (t.phase, t.sched.next, t.sched.ran)) =
      some (.schedule, 1, false) ∧
    (nextState? (step { exitedThenRunnable with sched := ⟨[0, 1], 1, false⟩ })).map
      (fun t => (t.phase, t.ctx.pcb, t.ctx.ring, t.ctx.pid, t.ctx.regs)) =
      some (.running, 1, 3, 1, { zeros with ax := 0x1234, ip := 0x0005, flags := 0x0044 }) := by decide

/-- Program B's writeback bytes; status kept (X4). -/
theorem test_writeback : (nextState? (step (returned 3 .quantumDone))).map
    (fun t => ([0x808, 0x809, 0x818, 0x819, 0x81A, 0x81B, 0x802, 0x806].map t.mem.read, t.pcbStatus 0)) =
      some ([0x41, 0x0E, 0x0D, 0x00, 0, 0, 9, 0x02], 1) := by decide

/-- X1, X2, Y7 and X11: the status words. -/
theorem test_signal_status : (nextState? (step (returned 3 .memFault))).map (fun t => t.pcbStatus 0) = some 5 ∧
    (nextState? (step (returned 3 .privFault))).map (fun t => t.pcbStatus 0) = some 6 ∧
    (nextState? (step (returned 3 (.syscallAbort 9)))).map (fun t => t.pcbStatus 0) = some 7 ∧
    nextState? (step (returned 0 .memFault)) = some { returned 0 .memFault with phase := .stopping .kernelFault } := by decide

/-- X2's machine stop: the registers are in the block before FATAL, the status kept. -/
theorem test_stop_writes_back :
    (nextState? (step { returned 0 .memFault with phase := .stopping .kernelFault })).map
      (fun t => (t.machine, [0x808, 0x809, 0x818, 0x819].map t.mem.read, t.pcbStatus 0)) =
      some (.fatal .kernelFault ⟨{ zeros with ax := 0x0E41, ip := 0x000D }, []⟩, [0x41, 0x0E, 0x0D, 0x00], 1) := by decide

/-- EXIT's word of a listed code, and of the others by the choice that is left open (00_scope.md R15). -/
theorem test_exit_words :
    let c := { resetConfig.statusCode with exitListed := [(3, 8)], exitRest := [9, 10] }
    [exitWord c (fun _ => 0) 3, exitWord c (fun n => n.toNat % 3) 4, exitWord c (fun n => n.toNat % 3) 6,
      exitWord c (fun n => n.toNat % 3) 5] = [8, 10, 9, 7] ∧
    [7, 8, 9, 10, 5, 6, 1].map c.isTerminal = [true, true, true, true, true, true, false] := by decide

/-- X6 (with a runnable process: X10), X7, X9. -/
theorem test_poll : (nextState? (step (polling [clocked 0 [0]]))).map (fun t => (t.waiting, t.phase)) = some (true, .schedule) ∧
    phaseAfter (step (polling [clocked 0 [2]])) = some (.suspended .shutdown zeroVector) ∧
    machineAfter (step (polling [clocked 0 [5]])) = some (.fatal .deviceStatus ⟨zeros, []⟩) := by decide

/-- X8: device 2 is not clocked. -/
theorem test_poll_order : (nextState? (step (polling [clocked 0 [0], clocked 1 [-1], clocked 2 [2]]))).map
    (fun t => (t.machine, t.drivers.map Driver.clocks)) = some (.fatal .deviceFatal ⟨zeros, []⟩, [[], [], [2]]) := by decide

/-- X7's end, and the stuck state after it. -/
theorem test_shutdown :
    machineAfter (step { polling [] with phase := .suspended .shutdown zeroVector, answers := [⟨[], .abort 0⟩] }) = some .shutdown ∧
    faultOf (step { polling [] with machine := .shutdown }) = some .machineStopped := by decide

/-- An append during a suspension extends the table and the segment lists; one that does not fit is refused. -/
theorem test_append : (nextState? (step (suspendedWith ⟨[.appendPcb (block 1 3 4) [⟨1, 2, 3, 4⟩]], .abort 0⟩))).map
      (fun t => (t.pcbCount, t.pcbPid 1, t.segsOf 4)) = some (2, 4, [⟨1, 2, 3, 4⟩]) ∧
    refusalOf (step { suspendedWith ⟨[.appendPcb (block 1 3 4) []], .abort 0⟩ with pcbCount := 2340 }) =
      some .pcbTableOutsideMemory := by decide

/-- The empty launch is the reset state (10_state.md R59). -/
theorem test_reset_is_launch : State.launch ⟨resetConfig, [], [], [], []⟩ = State.reset := by decide

/-! ## Witnesses: the hypotheses of each obligation, met together

A statement with several clauses has one for each clause, at a boundary of its range. Statements not
named here (the MMU's first match, CMP's and INC's completion, SYSCALL's presentation, the jumps' and
MOV's completion, every instruction's answer, reset) have no hypotheses, or their clauses' cases are
the two columns of the jump tests above. -/

theorem test_witness_DecodeEncodeRoundTrip : Instr.wf .none (.movImm .di 0xFFFF) = true ∧ Instr.wf .x86 (.decReg .di) = true := by decide

theorem test_witness_DecodedBytesAreTheEncoding : decode .x86 [0x4F, 0x00] = .ok (.decReg .di) ∧
    decode .none [0x83, 0xFF, 0x80, 0x01] = .ok (.cmpImm .di 0x80) := ⟨rfl, rfl⟩

/-- One opcode on each side of every range that is shut out, and both ends of the ModRM clauses. -/
theorem test_witness_IllegalEncodingsAreRejected :
    (∀ op ∈ [0x3F#8, 0x40#8, 0x4F#8, 0x50#8, 0x6F#8, 0x80#8, 0xB7#8, 0xC0#8, 0xFF#8],
      op ∉ [0x0F#8, 0x83#8, 0xA0#8, 0xCF#8, 0xE5#8, 0xE7#8, 0xEB#8, 0xF4#8] ∧
      ¬ (0x70 ≤ op.toNat ∧ op.toNat ≤ 0x7F) ∧ ¬ (0xB8 ≤ op.toNat ∧ op.toNat ≤ 0xBF) ∧
      ¬ (IncDecOpcodes.none = .x86 ∧ 0x40 ≤ op.toNat ∧ op.toNat ≤ 0x4F)) ∧
    0x04#8 ≠ 0x05#8 ∧ (0xBF#8).toNat < 0xC0 ∧ 0xD0 ≤ (0xD0#8).toNat ∧ (0xDF#8).toNat ≤ 0xDF := by decide

theorem test_witness_CutEncodingsAreTruncated : Instr.wf .none .hlt = true ∧ 0 < Instr.hlt.length ∧
    Instr.wf .none (.movAl 0) = true ∧ 2 < (Instr.movAl 0).length := by decide

/-- One register pair for each case of the hypothesis. -/
theorem test_witness_RegisterWritesAreMasked : Reg8.ah ≠ Reg8.al ∧ Reg16.cx ≠ (reg8Home .al).1 ∧
    Reg16.si ≠ (reg8Home .bh).1 ∧ RegName.flags ≠ RegName.ip := by decide

theorem test_witness_RegisterFileLayout :
    [zeros.ax, zeros.cx, zeros.dx, zeros.bx, zeros.sp, zeros.bp, zeros.si, zeros.di, zeros.ip, zeros.flags][0]? = some 0 ∧
    [zeros.ax, zeros.cx, zeros.dx, zeros.bx, zeros.sp, zeros.bp, zeros.si, zeros.di, zeros.ip, zeros.flags][9]? = some 0 := by decide

theorem test_witness_UnknownRegisterStops : 10 ≤ 10 ∧ 8 ≤ 8 := by decide

/-- The width and operation hypotheses of AluResultFlagsMeaning, AluAddSum, AluSubDifference,
AluCompareKeepsOperand, AluLogicalOperations and AluIncDecKeepCarry. -/
theorem test_witness_AluFunction : (8 = 8 ∨ 8 = 16) ∧ (16 = 8 ∨ 16 = 16) ∧
    (AluOp.or = .or ∨ AluOp.or = .and ∨ AluOp.or = .xor) ∧ (AluOp.and = .or ∨ AluOp.and = .and ∨ AluOp.and = .xor) ∧
    (AluOp.xor = .or ∨ AluOp.xor = .and ∨ AluOp.xor = .xor) ∧
    (AluOp.inc = .inc ∨ AluOp.inc = .dec) ∧ (AluOp.dec = .inc ∨ AluOp.dec = .dec) := by decide

theorem test_witness_AluCompareKeepsOperand : ∃ t, exec (.cmpImm .sp 0xFF) (quantumState 0 presented []) = .next t := ⟨_, rfl⟩

/-- Every pair of the list. -/
theorem test_witness_AluImmediateWritesResult : ∀ e ∈ [(AluOp.add, Instr.addImm .di 0x80), (.or, .orImm .di 0x80), (.and, .andImm .di 0x80),
      (.sub, .subImm .di 0x80), (.xor, .xorImm .di 0x80)],
    e ∈ [(AluOp.add, Instr.addImm .di 0x80), (.or, .orImm .di 0x80), (.and, .andImm .di 0x80),
      (.sub, .subImm .di 0x80), (.xor, .xorImm .di 0x80)] := by decide

/-- Every instruction of the list has a next state. -/
theorem test_witness_AluInstructionsFrame : ∀ i ∈ [Instr.addImm .sp 0x80, .orImm .sp 0x80, .andImm .sp 0x80, .subImm .sp 0x80,
      .xorImm .sp 0x80, .cmpImm .sp 0x80, .incReg .sp, .decReg .sp],
    (nextState? (exec i (quantumState 3 presented []))).isSome = true := by decide

/-- Equal operands, unsigned below but signed greater, and the converse. -/
theorem test_witness_JumpsAfterCompareTestOrder :
    (∃ t, exec (.cmpImm .bx 0x02) (quantumState 3 presented []) = .next t) ∧
    (∃ t, exec (.cmpImm .bx 0x80) (quantumState 3 presented []) = .next t) ∧
    (∃ t, exec (.cmpImm .ax 0x00) (quantumState 3 { zeros with ax := 0x8000 } []) = .next t) := ⟨⟨_, rfl⟩, ⟨_, rfl⟩, ⟨_, rfl⟩⟩

theorem test_witness_JumpsFrame : ∀ i ∈ [Instr.jo 0x80, .jno 0x80, .jb 0x80, .jnb 0x80, .jz 0x80, .jnz 0x80, .jbe 0x80, .ja 0x80, .js 0x80, .jns 0x80,
      .jp 0x80, .jnp 0x80, .jl 0x80, .jge 0x80, .jle 0x80, .jg 0x80, .jmp 0x80],
    (nextState? (exec i (quantumState 3 presented []))).isSome = true := by decide

/-- A byte in the middle, and the last byte of the memory. -/
theorem test_witness_MoveByteLoadsLowByte :
    translate (quantumState 3 zeros []).ctx.segs (0x1005#16).toNat 4 = some 0x405 ∧ 0x405 < (quantumState 3 zeros []).cfg.memSize ∧
    translate (quantumState 3 zeros []).ctx.segs (0x2000#16).toNat 4 = some 0xFFFF ∧
    0xFFFF < (quantumState 3 zeros []).cfg.memSize := by decide

/-- No segment, a segment without READ, and the first address past the memory. -/
theorem test_witness_MoveByteFaults : translate (quantumState 3 zeros []).ctx.segs (0x3000#16).toNat 4 = none ∧
    translate [⟨0x400, 0x1000, 0x10, 1⟩] (0x1005#16).toNat 4 = none ∧
    translate (quantumState 3 zeros []).ctx.segs (0x2001#16).toNat 4 = some 0x10000 ∧
    (quantumState 3 zeros []).cfg.memSize ≤ 0x10000 := by decide

/-- A resume after acts of the host, and an abort; the hypotheses of both clauses meet for a listed answer, and
for the free one they are those of the acts that the free answer names. -/
theorem test_witness_SyscallAnswerResumesOrAborts :
    (∃ u, (suspendedWith ⟨[.poke 0x405 0x99, .appendPcb (block 1 3 4) []], .resume zeroVector⟩).takeAnswer.hostEffects
      (suspendedWith ⟨[.poke 0x405 0x99, .appendPcb (block 1 3 4) []], .resume zeroVector⟩).hostAnswer.effects = some u) ∧
    (∃ u, (suspendedWith ⟨[], .abort (-1)⟩).takeAnswer.hostEffects (suspendedWith ⟨[], .abort (-1)⟩).hostAnswer.effects = some u) ∧
    (suspendedWith ⟨[], .abort (-1)⟩).machine = .running ∧
    (suspendedWith ⟨[], .abort (-1)⟩).phase = .suspended .syscall ⟨0x0E41, 2, 3, 4, 5, 6⟩ ∧
    (suspendedWith ⟨[], .abort (-1)⟩).hostAnswer.reply = .abort (-1) := ⟨⟨_, rfl⟩, ⟨_, rfl⟩, rfl, rfl, rfl⟩

/-- A driver that returns a byte, and one that returns the empty sentinel. -/
theorem test_witness_PortReadWritesAx :
    (quantumState 0 zeros []).ctx.ring = 0#8 ∧
    (quantumState 0 zeros []).driverAt 0x10 = some ⟨0x10, some 0x41 :: [none], [0, 0], []⟩ ∧
    Driver.readAnswer ⟨0x10, some 0x41 :: [none], [0, 0], []⟩ (quantumState 0 zeros []).draws = some 0x41 ∧
    ({ quantumState 0 zeros [] with drivers := [⟨0xFF, none :: [], [], []⟩] } : State).driverAt 0xFF = some ⟨0xFF, none :: [], [], []⟩ ∧
    Driver.readAnswer ⟨0xFF, none :: [], [], []⟩ (quantumState 0 zeros []).draws = none ∧
    (0x11#8 ≠ 0x10#8) := by decide

theorem test_witness_PortWriteSendsLowByte : (quantumState 0 presented []).ctx.ring = 0#8 ∧
    ∃ d, (quantumState 0 presented []).driverAt 0x10 = some d := ⟨rfl, ⟨_, rfl⟩⟩

theorem test_witness_UnmappedPortStops : Instr.inAx 0x99 ∈ [Instr.inAx 0x99, .outAx 0x99] ∧ Instr.outAx 0x99 ∈ [Instr.inAx 0x99, .outAx 0x99] ∧
    (quantumState 0 zeros []).ctx.ring = 0#8 ∧ ∀ d ∈ (quantumState 0 zeros []).drivers, d.port ≠ 0x99 := by decide

/-- Ring 0 for InterruptReturnEndsQuantum and HaltStopsMachine, with the block for the latter's stop; rings 1 and 255 for the latter's fault and for
PrivilegedAtUserRingFaults. -/
theorem test_witness_PrivilegedRings : (quantumState 0 zeros []).ctx.ring = 0#8 ∧ (quantumState 1 zeros []).ctx.ring ≠ 0#8 ∧
    (quantumState 255 zeros []).ctx.ring ≠ 0#8 ∧ (quantumState 0 zeros []).machine = .running ∧
    (quantumState 0 zeros []).ctx.pcb < (quantumState 0 zeros []).pcbCount ∧
    (quantumState 0 zeros []).cfg.pcbBase + 28 * (quantumState 0 zeros []).pcbCount ≤ (quantumState 0 zeros []).cfg.memSize ∧
    (∀ i ∈ [Instr.inAx 1, .outAx 1, .iret, .hlt], i ∈ [Instr.inAx 1, .outAx 1, .iret, .hlt]) := by decide

/-- NoInstructionWritesSystemState, UserRingCannotReachDevices and FlagsWrittenByAluOnly. -/
theorem test_witness_InstructionRules : (∃ t, exec (.inAx 0x10) (quantumState 0 zeros []) = .next t) ∧
    (∃ t, exec .syscall (quantumState 3 zeros []) = .next t ∧ (quantumState 3 zeros []).ctx.ring ≠ 0#8) ∧
    (∃ t, exec (.movAl 0x2001) (quantumState 3 zeros []) = .next t ∧ writesFlags (.movAl 0x2001) = false ∧
      t.phase = .stopping .bounds) ∧
    (∃ t, exec (.addImm .ax 1) (quantumState 3 zeros []) = .next t) :=
  ⟨⟨_, rfl⟩, ⟨_, rfl, by decide⟩, ⟨_, rfl, rfl, rfl⟩, ⟨_, rfl⟩⟩

theorem test_witness_StepRunsDecodedInstruction : (quantumState 3 zeros [0xCF]).machine = .running ∧ (quantumState 3 zeros [0xCF]).phase = .running ∧
    (quantumState 3 zeros [0xCF]).ctx.steps < (quantumState 3 zeros [0xCF]).cfg.quantum ∧
    translate (quantumState 3 zeros [0xCF]).ctx.segs (quantumState 3 zeros [0xCF]).ip.toNat 1 = some 0x100 ∧
    decodesTo (quantumState 3 zeros [0xCF]).cfg.incdec ((quantumState 3 zeros [0xCF]).window 0x100) .iret = true := by decide

/-- The last instruction that fits before the end of the memory. -/
def atMemoryEnd : State :=
  { quantumState 3 zeros [] with
    mem := [(0xFFFE, 0xEB), (0xFFFF, 0xFE)]
    ctx := { resetCtx with segs := [⟨0xFFFE, 0, 2, 1⟩] } }

theorem test_witness_StepRunsEncodedInstruction : atMemoryEnd.machine = .running ∧ atMemoryEnd.phase = .running ∧
    atMemoryEnd.ctx.steps < atMemoryEnd.cfg.quantum ∧ translate atMemoryEnd.ctx.segs atMemoryEnd.ip.toNat 1 = some 0xFFFE ∧
    Instr.wf atMemoryEnd.cfg.incdec (.jmp 0xFE) = true ∧ 0xFFFE + (Instr.jmp 0xFE).length ≤ atMemoryEnd.cfg.memSize ∧
    ∀ k, k < (Instr.jmp 0xFE).length → (encode (.jmp 0xFE))[k]? = some (atMemoryEnd.mem.read (0xFFFE + k)) := by decide

/-- The fetch fault at both rings, and a suspension whose answer is listed. -/
theorem test_witness_FetchFaultEndsInMemFault :
    (quantumState 3 { zeros with ip := 0x10 } []).ctx.steps < (quantumState 3 { zeros with ip := 0x10 } []).cfg.quantum ∧
    translate (quantumState 3 { zeros with ip := 0x10 } []).ctx.segs (0x10#16).toNat 1 = none ∧
    (nextState? (step { quantumState 3 { zeros with ip := 0x10 } [] with
      phase := .suspended .fetchFault zeroVector, answers := [⟨[], .abort 0⟩] })).isSome = true := by decide

/-- Bytes of each reason. -/
theorem test_witness_UndecodableBytesStopMachine :
    rejectsAs .x86 ((quantumState 3 zeros [0x90]).window 0x100) .undecodable = true ∧
    rejectsAs .x86 ((quantumState 3 zeros [0x83, 0xD0]).window 0x100) .unknownAluOp = true ∧
    rejectsAs .x86 ({ quantumState 3 zeros [] with mem := [(0xFFFF, 0x83)] : State }.window 0xFFFF) .truncated = true ∧
    translate (quantumState 3 zeros [0x90]).ctx.segs (quantumState 3 zeros [0x90]).ip.toNat 1 = some 0x100 ∧
    translate [⟨0xFFFF, 0, 1, 1⟩] (0#16).toNat 1 = some 0xFFFF ∧
    (quantumState 3 zeros [0x90]).ctx.pcb < (quantumState 3 zeros [0x90]).pcbCount ∧
    (quantumState 3 zeros [0x90]).cfg.pcbBase + 28 * (quantumState 3 zeros [0x90]).pcbCount ≤
      (quantumState 3 zeros [0x90]).cfg.memSize := by decide

theorem test_witness_SpentBudgetEndsQuantum :
    ({ quantumState 3 zeros [] with ctx := { resetCtx with steps := 4 } } : State).cfg.quantum ≤ 4 := by decide

theorem test_witness_SchedulerLoadsContext :
    ({ exitedThenRunnable with sched := ⟨[0, 1], 1, false⟩ } : State).machine = .running ∧
    ({ exitedThenRunnable with sched := ⟨[0, 1], 1, false⟩ } : State).phase = .schedule ∧
    [0, 1][1]? = some 1 ∧ 1 < exitedThenRunnable.pcbCount ∧
    exitedThenRunnable.cfg.pcbBase + 28 * exitedThenRunnable.pcbCount ≤ exitedThenRunnable.cfg.memSize ∧
    exitedThenRunnable.runnable 1 = true := by decide

/-- A member that is skipped, and the end of the pass. -/
theorem test_witness_SchedulerSkipsAndBeginsPass : exitedThenRunnable.machine = .running ∧ exitedThenRunnable.phase = .schedule ∧
    exitedThenRunnable.sched.members[exitedThenRunnable.sched.next]? = some 0 ∧ exitedThenRunnable.runnable 0 = false ∧
    ([0, 1] : List Nat).length ≤ 2 := by decide

/-- The premises on the state, and each case of the signal's. -/
theorem test_witness_SignalDecidesStatusWord :
    (returned 3 .quantumDone).machine = .running ∧ (returned 3 .quantumDone).ctx.pcb < (returned 3 .quantumDone).pcbCount ∧
    (returned 3 .quantumDone).cfg.pcbBase + 28 * (returned 3 .quantumDone).pcbCount ≤ (returned 3 .quantumDone).cfg.memSize ∧
    (returned 3 .quantumDone).mem.wf (returned 3 .quantumDone).cfg.memSize = true ∧
    (returned 3 .quantumDone).ctx.statusWord = 1 ∧ (returned 0 .intDone).ctx.ring = 0#8 ∧ (returned 3 .memFault).ctx.ring ≠ 0#8 ∧
    (returned 1 .privFault).ctx.ring ≠ 0#8 ∧ (returned 3 (.syscallAbort 7)).cfg.onSyscallAbort ≠ .keepStatus := by decide

/-- A block at the end of a quantum, its first and last register word, and the same block at a machine stop. -/
theorem test_witness_QuantumEndWritesRegistersBack : (returned 3 .privFault).mem.wf (returned 3 .privFault).cfg.memSize = true ∧
    (nextState? (step (returned 3 .privFault))).isSome = true ∧
    (nextState? (step { returned 3 .privFault with phase := .stopping .bounds })).isSome = true ∧
    (RegFile.words (returned 3 .privFault).ctx.regs)[0]? = some 0x0E41 ∧ (RegFile.words (returned 3 .privFault).ctx.regs)[9]? = some 0 := by decide

/-- KERNEL_FAULT's first move, and the stop of a block that lies in the table. -/
theorem test_witness_MachineStopsWriteBackFirst : (returned 0 .memFault).machine = .running ∧ (returned 0 .memFault).phase = .returned .memFault ∧
    (returned 0 .memFault).ctx.ring = 0#8 ∧ (returned 0 .memFault).ctx.pcb < (returned 0 .memFault).pcbCount ∧
    (returned 0 .memFault).cfg.pcbBase + 28 * (returned 0 .memFault).pcbCount ≤ (returned 0 .memFault).cfg.memSize ∧
    (returned 0 .memFault).mem.wf (returned 0 .memFault).cfg.memSize = true ∧
    ({ returned 0 .memFault with phase := .stopping .halt } : State).phase = .stopping .halt := by decide

/-- Each of the three signals at a non-zero ring, and SYSCALL_ABORT at ring 0. -/
theorem test_witness_FaultedProcessIsNotRunnable : (∀ sig ∈ [Signal.memFault, .privFault, .syscallAbort 7],
    (returned 3 sig).phase = .returned sig ∧ (returned 3 sig).cfg.onSyscallAbort = .exitWithStatus ∧ (returned 3 sig).ctx.ring ≠ 0#8 ∧
    (returned 3 sig).mem.wf (returned 3 sig).cfg.memSize = true ∧ (nextState? (step (returned 3 sig))).isSome = true) ∧
    (returned 0 (.syscallAbort 7)).ctx.ring = 0#8 ∧ (returned 0 (.syscallAbort 7)).cfg.onSyscallAbort = .exitWithStatus ∧
    (nextState? (step (returned 0 (.syscallAbort 7)))).isSome = true := by decide

/-- Devices before the deciding one, and each kind of deciding status. -/
theorem test_witness_PollFirstNonZeroDecides :
    (∀ (k : Nat) (x : Driver), [clocked 0 [0, 5]][k]? = some x → x.clockStatus (4 + k) = 0) ∧
    (∀ (k : Nat) (x : Driver), ([] : List Driver)[k]? = some x → x.clockStatus (4 + k) = 0) ∧
    (∀ c ∈ [(-1 : Int), 2, 1, -2], (clocked 1 [c]).clockStatus 5 = c ∧ c ≠ 0) := by
  refine ⟨fun k x hx => ?_, fun k x hx => by simp at hx, by decide⟩
  obtain ⟨-, rfl⟩ : k = 0 ∧ clocked 0 [0, 5] = x := by simpa [List.getElem?_singleton] using hx
  rfl

/-- Each end of a poll. -/
theorem test_witness_PollOutcomes : (polling []).machine = .running ∧ (polling []).phase = .polling ∧
    (polling []).cfg.pcbBase + 28 * (polling []).pcbCount ≤ (polling []).cfg.memSize ∧
    (clockDrivers 0 [clocked 0 [0]]).1 = .allOk ∧ (clockDrivers 0 [clocked 0 [3]]).1 = .fatal .deviceStatus ∧
    (clockDrivers 0 [clocked 0 [2]]).1 = .shutdown := by decide

theorem test_witness_ShutdownEndsMachine :
    (nextState? (step { polling [] with phase := .suspended .shutdown zeroVector, answers := [⟨[], .abort 0⟩] })).isSome = true ∧
    ({ polling [] with machine := .shutdown } : State).machine ≠ .running := by decide

/-- A step that writes memory, a step that does not, and a block that is not the running one. -/
theorem test_witness_OnlyRunningBlockIsWritten : (∀ k v, (returned 3 .quantumDone).phase ≠ .suspended k v) ∧
    (nextState? (step (returned 3 .quantumDone))).isSome = true ∧ 1 ≠ (returned 3 .quantumDone).ctx.pcb ∧
    (∀ sig, exitedThenRunnable.phase ≠ .returned sig) ∧ (∀ r, exitedThenRunnable.phase ≠ .stopping r) ∧
    (nextState? (step exitedThenRunnable)).isSome = true :=
  ⟨fun _ _ h => (nomatch h), by decide, by decide, fun _ h => (nomatch h), fun _ h => (nomatch h), by decide⟩

theorem test_witness_ContextFixedDuringQuantum : (returned 3 .quantumDone).phase ≠ .schedule ∧
    (nextState? (step (returned 3 .quantumDone))).isSome = true ∧
    (nextState? (step (quantumState 3 zeros [0xEB, 0xFE]))).isSome = true := by decide

theorem test_witness_ParametersNeverChange : (nextState? (step exitedThenRunnable)).isSome = true := by decide

theorem test_witness_LaunchedBlocksReadBack : (launchOf [block 1 3 0, block 7 0 1] [clocked 0 [0]]).wf = true ∧
    (launchOf [block 1 3 0, block 7 0 1] []).pcbs[0]? = some (block 1 3 0) ∧
    (launchOf [block 1 3 0, block 7 0 1] []).pcbs[1]? = some (block 7 0 1) := by decide

/-- A state in a quantum that meets the invariant, for StepKeepsInvariant and InvariantMeansProgress. -/
theorem test_witness_Inv : Inv (quantumState 3 presented [0x0F, 0x05]) where
  memory := by decide
  table := by decide
  members := by decide
  current := by decide
  budget := by decide
  trace := by decide
  privFault := by decide
  intDone := by decide
  fetchTrap := by intro v h; cases h
  syscallTrap := by intro v h; cases h

theorem test_witness_StepKeepsInvariant : (∃ t, step (quantumState 3 presented [0x0F, 0x05]) = .next t) ∧
    (quantumState 3 presented [0x0F, 0x05]).machine = .running := ⟨⟨_, rfl⟩, rfl⟩

end Sys2Proof.Tests
end

section
/-! SUPPORT. The register file: what its byte registers read after each write (10_state.md R33 to R36) and
where its bytes lie (R32), with the two statements about it. -/

namespace Sys2Proof

theorem lowByte_eq_ofNat (w : Word) : lowByte w = BitVec.ofNat 8 w.toNat := by
  apply BitVec.eq_of_toNat_eq
  rw [toNat_lowByte, BitVec.toNat_ofNat]

theorem highByte_eq_ofNat (w : Word) : highByte w = BitVec.ofNat 8 (w.toNat / 256) := by
  have hw := w.isLt
  apply BitVec.eq_of_toNat_eq
  rw [toNat_highByte, BitVec.toNat_ofNat]
  omega

namespace Machine

/-! ## Byte registers -/

/-- No two byte registers are the same byte of the same word (10_state.md R33). -/
theorem reg8Home_injective : Function.Injective reg8Home := by
  intro r q h
  cases r <;> cases q <;> cases h <;> rfl

@[simp] theorem RegFile.getByte_setIp (f : RegFile) (v : Word) (q : Reg8) : (f.setIp v).getByte q = f.getByte q := by
  simp only [RegFile.getByte, RegFile.get_setIp]

@[simp] theorem RegFile.getByte_setFlags (f : RegFile) (v : Word) (q : Reg8) :
    (f.setFlags v).getByte q = f.getByte q := by
  simp only [RegFile.getByte, RegFile.get_setFlags]

/-- A word write changes no byte of another word. -/
@[simp] theorem RegFile.getByte_set_ne (f : RegFile) {r : Reg16} {q : Reg8} (v : Word) (h : (reg8Home q).1 ≠ r) :
    (f.set r v).getByte q = f.getByte q := by
  simp only [RegFile.getByte, RegFile.get_set_ne f v h]

@[simp] theorem RegFile.setByte_ip (f : RegFile) (r : Reg8) (v : Byte) : (f.setByte r v).ip = f.ip :=
  RegFile.set_ip ..

@[simp] theorem RegFile.setByte_flags (f : RegFile) (r : Reg8) (v : Byte) : (f.setByte r v).flags = f.flags :=
  RegFile.set_flags ..

/-- A byte write changes no other word. -/
@[simp] theorem RegFile.get_setByte_ne (f : RegFile) {r : Reg8} {g : Reg16} (v : Byte) (h : g ≠ (reg8Home r).1) :
    (f.setByte r v).get g = f.get g :=
  RegFile.get_set_ne f _ h

@[simp] theorem RegFile.getByte_setByte_same (f : RegFile) (r : Reg8) (v : Byte) : (f.setByte r v).getByte r = v := by
  simp only [RegFile.getByte, RegFile.setByte, RegFile.get_set_same]
  cases (reg8Home r).2 <;> simp

/-- A byte write keeps every other byte register, the other byte of its own word included (10_state.md R36). -/
@[simp] theorem RegFile.getByte_setByte_ne (f : RegFile) {r q : Reg8} (v : Byte) (h : q ≠ r) :
    (f.setByte r v).getByte q = f.getByte q := by
  by_cases hword : (reg8Home q).1 = (reg8Home r).1
  · have hside : (reg8Home q).2 = !(reg8Home r).2 :=
      Bool.eq_not_of_ne fun hs => h (reg8Home_injective (Prod.ext hword hs))
    simp only [RegFile.getByte, RegFile.setByte, hword, hside, RegFile.get_set_same]
    cases (reg8Home r).2 <;> simp
  · exact RegFile.getByte_set_ne f _ hword

/-! ## The register-file interface -/

/-- A write reads back masked to the register's width (10_state.md R36). -/
theorem RegFile.readName_writeName_same (f : RegFile) (n : RegName) (v : Nat) :
    (f.writeName n v).readName n = v % 2 ^ n.width := by
  cases n <;> simp [RegFile.writeName, RegFile.readName, RegName.width]

/-- Settles O6: one law of the register file for each pair of a written and a read register. -/
theorem registerWritesAreMasked : Obligations.RegisterWritesAreMasked := by
  unfold Obligations.RegisterWritesAreMasked
  intro f n v
  refine ⟨RegFile.readName_writeName_same f n v, fun m h => ?_⟩
  cases n with
  | gen r =>
    cases m with
    | gen q => exact congrArg BitVec.toNat (RegFile.get_set_ne f _ fun e => h (congrArg RegName.gen e))
    | ip => exact congrArg BitVec.toNat (RegFile.set_ip ..)
    | flags => exact congrArg BitVec.toNat (RegFile.set_flags ..)
    | sub q => exact congrArg BitVec.toNat (RegFile.getByte_set_ne f _ (Ne.symm h))
  | ip =>
    cases m with
    | gen q => exact congrArg BitVec.toNat (RegFile.get_setIp ..)
    | ip => exact absurd rfl h
    | flags => exact congrArg BitVec.toNat (RegFile.setIp_flags ..)
    | sub q => exact congrArg BitVec.toNat (RegFile.getByte_setIp ..)
  | flags =>
    cases m with
    | gen q => exact congrArg BitVec.toNat (RegFile.get_setFlags ..)
    | ip => exact congrArg BitVec.toNat (RegFile.setFlags_ip ..)
    | flags => exact absurd rfl h
    | sub q => exact congrArg BitVec.toNat (RegFile.getByte_setFlags ..)
  | sub r =>
    cases m with
    | gen g => exact congrArg BitVec.toNat (RegFile.get_setByte_ne f _ h)
    | ip => exact congrArg BitVec.toNat (RegFile.setByte_ip ..)
    | flags => exact congrArg BitVec.toNat (RegFile.setByte_flags ..)
    | sub q => exact congrArg BitVec.toNat (RegFile.getByte_setByte_ne f _ h)

/-! ## Layout -/

/-- Words written out as byte pairs: word `j` lies at offsets `2 * j` and `2 * j + 1`. -/
theorem getElem?_flatMap_pair (lo hi : Word → Byte) (ws : List Word) (j : Nat) :
    (ws.flatMap fun w => [lo w, hi w])[2 * j]? = ws[j]?.map lo ∧
      (ws.flatMap fun w => [lo w, hi w])[2 * j + 1]? = ws[j]?.map hi := by
  induction ws generalizing j with
  | nil => simp
  | cons w ws ih =>
    cases j with
    | zero => simp
    | succ j => simpa [Nat.mul_succ] using ih j

/-- Settles O7: the file's bytes are its words written out as pairs, low byte first. -/
theorem registerFileLayout : Obligations.RegisterFileLayout := by
  unfold Obligations.RegisterFileLayout
  intro f j w hw
  change (RegFile.words f)[j]? = some w at hw
  obtain ⟨hlo, hhi⟩ := getElem?_flatMap_pair lowByte highByte (RegFile.words f) j
  rw [hw, Option.map_some] at hlo hhi
  exact ⟨RegFile.bytes_length f, lowByte_eq_ofNat w ▸ hlo, highByte_eq_ofNat w ▸ hhi⟩

end Machine
end Sys2Proof
end

section
/-! SUPPORT. The MMU's scan (20_memory.md R90) as the library's `List.find?`, with the statement about it. -/

namespace Sys2Proof.Machine

@[simp] theorem Segment.contains_iff (x : Segment) (la : Nat) :
    x.contains la = true ↔ x.localStart ≤ la ∧ la < x.localStart + x.size := by
  simp only [Segment.contains, Bool.and_eq_true, decide_eq_true_eq]

@[simp] theorem Segment.permits_iff (x : Segment) (mask : Nat) : x.permits mask = true ↔ x.perms &&& mask = mask := by
  simp only [Segment.permits, beq_iff_eq]

/-- The permissions are looked at only after the scan has ended: a first match that lacks one is not passed over. -/
theorem translate_eq_find? (segs : List Segment) (la mask : Nat) :
    translate segs la mask = ((segs.find? (·.contains la)).filter (·.permits mask)).map
      fun x => x.globalStart + (la - x.localStart) := by
  induction segs with
  | nil => rfl
  | cons x segs ih =>
    rw [translate, List.find?_cons]
    cases x.contains la with
    | false => exact ih
    | true => by_cases hperm : x.perms &&& mask = mask <;> simp [hperm]

/-- An answer comes from the first containing segment, whose permissions cover the mask. -/
theorem translate_eq_some_iff (segs : List Segment) (la mask g : Nat) :
    translate segs la mask = some g ↔ ∃ x, segs.find? (·.contains la) = some x ∧ x.permits mask = true ∧
      x.globalStart + (la - x.localStart) = g := by
  simp only [translate_eq_find?, Option.map_eq_some_iff, Option.filter_eq_some_iff, and_assoc]

/-- What it is to be the first containing segment: it contains the address and none before it does. -/
theorem find?_contains_eq_some_iff (segs : List Segment) (la : Nat) (x : Segment) :
    segs.find? (·.contains la) = some x ↔ (x.localStart ≤ la ∧ la < x.localStart + x.size) ∧
      ∃ pre post, segs = pre ++ x :: post ∧ ∀ y ∈ pre, ¬ (y.localStart ≤ la ∧ la < y.localStart + y.size) := by
  simp only [List.find?_eq_some_iff_append, Bool.not_eq_true', ← Bool.not_eq_true, Segment.contains_iff]

/-- Settles O9: the scan is `List.find?`, and the library says which element that finds. -/
theorem translateFirstMatchDecides : Obligations.TranslateFirstMatchDecides := by
  unfold Obligations.TranslateFirstMatchDecides
  intro segs la mask g
  simp only [translate_eq_some_iff, find?_contains_eq_some_iff, Segment.permits_iff]
  constructor
  · rintro ⟨x, ⟨⟨hlo, hhi⟩, pre, post, hsegs, hpre⟩, hperm, hg⟩
    exact ⟨pre, x, post, hsegs, hpre, hlo, hhi, hperm, hg.symm⟩
  · rintro ⟨pre, x, post, hsegs, hpre, hlo, hhi, hperm, hg⟩
    exact ⟨x, ⟨⟨hlo, hhi⟩, pre, post, hsegs, hpre⟩, hperm, hg.symm⟩

end Sys2Proof.Machine
end

section
/-! SUPPORT. The ALU function (41_alu.md section 1): its flags by the meaning the rules give them, at every width
(INC and DEC: every positive width), with the statements about it. -/

namespace Sys2Proof.Machine

/-! ## Result flags (41_alu.md R172) -/

/-- The parity of the number of elements kept is the exclusive or of the tests. -/
theorem bodd_length_filter {α : Type} (p : α → Bool) (xs : List α) :
    (xs.filter p).length.bodd = xs.foldr (fun x acc => p x ^^ acc) false := by
  induction xs with
  | nil => simp
  | cons x xs ih => cases hx : p x <;> simp [hx, ih]

theorem evenParity_iff_popcount (b : Byte) : evenParity b = true ↔ popcount b % 2 = 0 := by
  have hodd : (popcount b).bodd = !evenParity b := by
    rw [popcount, bodd_length_filter, evenParity, Bool.not_not]
    simp [List.range_succ]
  simp [Nat.mod_two_of_bodd, hodd]

theorem resultFlagsOf_resultFlags {w : Nat} (r : BitVec w) (cf ov : Bool) : ResultFlagsOf r (resultFlags r cf ov) := by
  refine ⟨?_, ?_, ?_⟩
  · simp [resultFlags, ← BitVec.toNat_inj]
  · simp [resultFlags, BitVec.msb_eq_decide]
  · rw [BitVec.ofNat_toNat]
    exact evenParity_iff_popcount _

/-- ZF, SF and PF come from the computed value, which is the result except for CMP. -/
theorem aluApply_flags_eq_resultFlags {w : Nat} (op : AluOp) (a b : BitVec w) (fl : FlagBits) :
    (aluApply op a b fl).flags = resultFlags (if op = .cmp then a - b else (aluApply op a b fl).result)
      (aluApply op a b fl).flags.cf (aluApply op a b fl).flags.ov := by
  cases op <;> rfl

/-- Settles O10: every operation's flags are `resultFlags` of the value it computes. -/
theorem aluResultFlagsMeaning : Obligations.AluResultFlagsMeaning := by
  unfold Obligations.AluResultFlagsMeaning
  intro w _ op a b fl
  rw [aluApply_flags_eq_resultFlags]
  exact resultFlagsOf_resultFlags ..

/-- An operation that returns the value it computes sets ZF, SF and PF of its result. -/
theorem aluApply_resultFlagsOf {w : Nat} {op : AluOp} (hop : op ≠ .cmp) (a b : BitVec w) (fl : FlagBits) :
    ResultFlagsOf (aluApply op a b fl).result (aluApply op a b fl).flags := by
  rw [aluApply_flags_eq_resultFlags, if_neg hop]
  exact resultFlagsOf_resultFlags ..

/-! ## Signed overflow: by the signs, and by the signed range (41_alu.md R173, R174) -/

theorem addOverflow_iff_msb {w : Nat} (a b r : BitVec w) :
    addOverflow a b r = true ↔ a.msb = b.msb ∧ r.msb ≠ a.msb := by
  simp only [addOverflow, Bool.and_eq_true, beq_iff_eq, bne_iff_ne]

theorem subOverflow_iff_msb {w : Nat} (a b r : BitVec w) :
    subOverflow a b r = true ↔ a.msb ≠ b.msb ∧ r.msb ≠ a.msb := by
  simp only [subOverflow, Bool.and_eq_true, bne_iff_ne]

/-- OF of a sum is the library's signed overflow, which is defined by the signed range. -/
theorem addOverflow_eq_saddOverflow {w : Nat} (a b : BitVec w) : addOverflow a b (a + b) = a.saddOverflow b :=
  (BitVec.saddOverflow_eq a b).symm

theorem subOverflow_eq_ssubOverflow {w : Nat} (a b : BitVec w) : subOverflow a b (a - b) = a.ssubOverflow b := by
  rw [BitVec.ssubOverflow_eq, subOverflow]
  cases a.msb <;> cases b.msb <;> simp

theorem addOverflow_iff_outsideSigned {w : Nat} (a b : BitVec w) :
    addOverflow a b (a + b) = true ↔ OutsideSigned w (a.toInt + b.toInt) := by
  simp only [addOverflow_eq_saddOverflow, BitVec.saddOverflow, OutsideSigned, Bool.or_eq_true, decide_eq_true_eq,
    ge_iff_le, or_comm]

theorem subOverflow_iff_outsideSigned {w : Nat} (a b : BitVec w) :
    subOverflow a b (a - b) = true ↔ OutsideSigned w (a.toInt - b.toInt) := by
  simp only [subOverflow_eq_ssubOverflow, BitVec.ssubOverflow, OutsideSigned, Bool.or_eq_true, decide_eq_true_eq,
    ge_iff_le, or_comm]

/-! ## ADD and SUB (41_alu.md R173, R174) -/

/-- Settles O11: the library's sum, CF as the model decides it, and the two readings of `addOverflow`. -/
theorem aluAddSum : Obligations.AluAddSum := by
  unfold Obligations.AluAddSum
  intro w _ a b fl out
  exact ⟨BitVec.toNat_add a b, decide_eq_true_iff, addOverflow_iff_msb a b (a + b), addOverflow_iff_outsideSigned a b⟩

/-- A difference of words is the integer difference of their values, modulo 2^w. -/
theorem toNat_sub_eq_emod {w : Nat} (a b : BitVec w) :
    ((a - b).toNat : Int) = ((a.toNat : Int) - b.toNat) % 2 ^ w := by
  have hshift : ((2 ^ w - b.toNat + a.toNat : Nat) : Int) = (a.toNat : Int) - b.toNat + 2 ^ w := by
    push_cast [b.isLt.le]
    ring
  calc ((a - b).toNat : Int)
      = ((2 ^ w - b.toNat + a.toNat : Nat) : Int) % 2 ^ w := by rw [BitVec.toNat_sub]; push_cast; rfl
    _ = ((a.toNat : Int) - b.toNat) % 2 ^ w := by rw [hshift, Int.add_emod_right]

/-- Settles O12: the integer difference, CF as the model decides it, and the two readings of `subOverflow`. -/
theorem aluSubDifference : Obligations.AluSubDifference := by
  unfold Obligations.AluSubDifference
  intro w _ a b fl out
  exact ⟨toNat_sub_eq_emod a b, decide_eq_true_iff, subOverflow_iff_msb a b (a - b), subOverflow_iff_outsideSigned a b⟩

/-! ## OR, AND and XOR (41_alu.md R176 to R178) -/

/-- Settles O14: the results are the library's bitwise operations, and no branch sets CF or OF. -/
theorem aluLogicalOperations : Obligations.AluLogicalOperations := by
  unfold Obligations.AluLogicalOperations
  intro w _ a b fl
  refine ⟨fun k => BitVec.getLsbD_or, fun k => BitVec.getLsbD_and, fun k => BitVec.getLsbD_xor, ?_⟩
  rintro op (rfl | rfl | rfl) <;> exact ⟨rfl, rfl, aluApply_resultFlagsOf (by decide) a b fl⟩

/-! ## INC and DEC (41_alu.md R179, R180) -/

/-- The signed range by its bound as a natural number, which `omega` can compare with a word's value. -/
theorem outsideSigned_iff_natCast (w : Nat) (v : Int) :
    OutsideSigned w v ↔ v < -((2 ^ (w - 1) : Nat) : Int) ∨ ((2 ^ (w - 1) : Nat) : Int) ≤ v := by
  rw [Nat.cast_pow, Nat.cast_two, OutsideSigned]

/-- Only the greatest signed word leaves the signed range when one is added. -/
theorem toNat_eq_signedMax_iff {w : Nat} (hw : 0 < w) (a : BitVec w) :
    a.toNat = 2 ^ (w - 1) - 1 ↔ OutsideSigned w (a.toInt + 1) := by
  have ha := a.isLt
  have hhalf := Nat.two_pow_pos (w - 1)
  have hpow := Nat.two_pow_pred_mul_two hw
  rw [outsideSigned_iff_natCast, BitVec.toInt_eq_toNat_cond]
  split <;> omega

/-- Only the least signed word leaves the signed range when one is taken away. -/
theorem toNat_eq_signedMin_iff {w : Nat} (hw : 0 < w) (a : BitVec w) :
    a.toNat = 2 ^ (w - 1) ↔ OutsideSigned w (a.toInt - 1) := by
  have ha := a.isLt
  have hpow := Nat.two_pow_pred_mul_two hw
  rw [outsideSigned_iff_natCast, BitVec.toInt_eq_toNat_cond]
  split <;> omega

/-- Settles O15: OF is set at one operand, the end of the signed range that the operation leaves. -/
theorem aluIncDecKeepCarry : Obligations.AluIncDecKeepCarry := by
  unfold Obligations.AluIncDecKeepCarry
  intro w hwidth a b fl
  have hw : 0 < w := by omega
  have hone : (1#w).toNat = 1 := BitVec.toNat_one hw
  refine ⟨?_, ?_, ?_, ?_, decide_eq_true_iff, decide_eq_true_iff, ?_⟩
  · exact (BitVec.toNat_add a 1#w).trans (by rw [hone])
  · exact (toNat_sub_eq_emod a 1#w).trans (by rw [hone, Nat.cast_one])
  · exact decide_eq_true_iff.trans (toNat_eq_signedMax_iff hw a)
  · exact decide_eq_true_iff.trans (toNat_eq_signedMin_iff hw a)
  · rintro op (rfl | rfl) <;> exact ⟨rfl, aluApply_resultFlagsOf (by decide) a b fl, fun c => ⟨rfl, rfl⟩⟩

end Sys2Proof.Machine
end

section
/-! SUPPORT. The unconditional jump (42_control_transfer.md R228): its target as integer arithmetic, and the
statement about it. -/

namespace Sys2Proof

/-- Sign extension keeps the signed value, read modulo 2^16 (00_scope.md R20). -/
theorem toNat_sext16 (b : Byte) : ((sext16 b).toNat : Int) = b.toInt % 65536 := by
  rw [sext16, BitVec.signExtend, BitVec.toNat_ofInt]
  exact Int.toNat_of_nonneg (Int.emod_nonneg _ (by decide))

/-- The target of a taken jump: the two additions wrap, and so does their integer sum (42_control_transfer.md R210). -/
theorem toNat_jumpTarget (ip : Word) (rel : Byte) :
    ((ip + 2#16 + sext16 rel).toNat : Int) = ((ip.toNat : Int) + 2 + rel.toInt) % 65536 := by
  have hsext := toNat_sext16 rel
  simp only [BitVec.toNat_add, BitVec.toNat_ofNat]
  omega

namespace Machine

theorem State.setIp_ip (s : State) (v : Word) : (s.setIp v).ip = v := rfl

/-- JMP is the relative jump with taken always, so it only moves IP (42_control_transfer.md R228). -/
theorem exec_jmp (rel : Byte) (s : State) : exec (.jmp rel) s = .next (s.setIp (s.ip + 2#16 + sext16 rel)) := by
  rw [exec, execJmp, State.jumpRel_eq, if_pos rfl]

/-- Settles O22: JMP sets IP to the wrapped target, whose integer value is `toNat_jumpTarget`. -/
theorem jumpAlwaysTaken : Obligations.JumpAlwaysTaken := by
  unfold Obligations.JumpAlwaysTaken
  intro rel
  refine ⟨rfl, rfl, fun s => ⟨s.setIp (s.ip + 2#16 + sext16 rel), exec_jmp rel s, ?_, ?_⟩⟩
  · rw [State.setIp_ip]
    exact toNat_jumpTarget s.ip rel
  · rw [State.setIp_ip]

end Machine
end Sys2Proof
end

section
/-! SUPPORT. The decoder (30_encoding.md): what the first byte decides, the two directions of the encoding, and
what happens where the bytes end, with the statements about it. -/

namespace Sys2Proof

/-! ## Fields of a byte -/

/-- A byte is its high nibble before its low one. -/
theorem highNibble_append_lowNibble (b : Byte) : b.extractLsb' 4 4 ++ b.extractLsb' 0 4 = b := by
  revert b; decide

/-- A byte `10111rrr` is an opcode with a register field (30_encoding.md R113). -/
theorem opcodeReg_movImm (b : Byte) (hnib : (b.extractLsb' 4 4).toNat = 0xB) (hbit : b.getLsbD 3 = true) :
    opcodeReg 0b10111#5 (reg16OfIndex (fieldLow3 b)) = b := by
  revert b; decide

/-- A byte `0100xrrr` is the opcode of DEC or of INC, as bit 3 says (30_encoding.md R116). -/
theorem opcodeReg_incDec (b : Byte) (hnib : (b.extractLsb' 4 4).toNat = 0x4) :
    opcodeReg (if b.getLsbD 3 then 0b01001#5 else 0b01000#5) (reg16OfIndex (fieldLow3 b)) = b := by
  revert b; decide

/-- A ModRM byte with mod = 11 is made of its two other fields (30_encoding.md R113). -/
theorem modRm_fields (b : Byte) (hmod : fieldMod b = 3#2) : modRm (fieldReg b) (reg16OfIndex (fieldLow3 b)) = b := by
  revert b; decide

theorem encode_jccOfNibble (cc : BitVec 4) (d : Byte) : encode (jccOfNibble cc d) = [7#4 ++ cc, d] := by
  obtain ⟨n⟩ := cc
  fin_cases n <;> rfl

theorem jccOfNibble_wf (p : IncDecOpcodes) (cc : BitVec 4) (d : Byte) : (jccOfNibble cc d).wf p = true := by
  obtain ⟨n⟩ := cc
  fin_cases n <;> rfl

/-- An ALU instruction of a ModRM field carries that field in its encoding (30_encoding.md R116, R117). -/
theorem encode_aluImmOfReg {g : BitVec 3} {r : Reg16} {b : Byte} {i : Instr} (h : aluImmOfReg g r b = some i) :
    encode i = [0x83#8, modRm g r, b] ∧ ∀ p, i.wf p = true := by
  obtain ⟨n⟩ := g
  fin_cases n <;> cases h <;> exact ⟨rfl, fun _ => rfl⟩

/-! ## What the first byte decides -/

/-- How the bytes after a first byte are decoded (30_encoding.md R116 to R118). -/
inductive OpcodeForm (p : IncDecOpcodes) (op : Byte) : (List Byte → Except Reject Instr) → Prop where
  | syscall (hop : op = 0x0F#8) : OpcodeForm p op decodeSyscall
  | incReg (r : Reg16) (hp : p = .x86) (hop : op = opcodeReg 0b01000#5 r) : OpcodeForm p op (fun _ => .ok (.incReg r))
  | decReg (r : Reg16) (hp : p = .x86) (hop : op = opcodeReg 0b01001#5 r) : OpcodeForm p op (fun _ => .ok (.decReg r))
  | jcc (cc : BitVec 4) (hop : op = 7#4 ++ cc) : OpcodeForm p op (decodeByte (jccOfNibble cc))
  | aluImm (hop : op = 0x83#8) : OpcodeForm p op decodeAluImm
  | movAl (hop : op = 0xA0#8) : OpcodeForm p op (decodeWord .movAl)
  | movImm (r : Reg16) (hop : op = opcodeReg 0b10111#5 r) : OpcodeForm p op (decodeWord (.movImm r))
  | iret (hop : op = 0xCF#8) : OpcodeForm p op (fun _ => .ok .iret)
  | inAx (hop : op = 0xE5#8) : OpcodeForm p op (decodeByte .inAx)
  | outAx (hop : op = 0xE7#8) : OpcodeForm p op (decodeByte .outAx)
  | jmp (hop : op = 0xEB#8) : OpcodeForm p op (decodeByte .jmp)
  | hlt (hop : op = 0xF4#8) : OpcodeForm p op (fun _ => .ok .hlt)
  | illegal : OpcodeForm p op (fun _ => .error .undecodable)

/-- Opcodes 0x40–0x4F. -/
theorem decodeIncDec_form (p : IncDecOpcodes) (op : Byte) (hnib : (op.extractLsb' 4 4).toNat = 0x4) :
    OpcodeForm p op (fun _ => decodeIncDec p op) := by
  have hop := opcodeReg_incDec op hnib
  cases p with
  | none => exact .illegal
  | x86 =>
    simp only [decodeIncDec]
    split at hop
    · rw [if_pos ‹_›]; exact .decReg _ rfl hop.symm
    · rw [if_neg ‹_›]; exact .incReg _ rfl hop.symm

/-- The first byte fixes how the bytes after it are decoded. -/
theorem decode_form (p : IncDecOpcodes) (op : Byte) :
    ∃ f, OpcodeForm p op f ∧ ∀ rest, decode p (op :: rest) = f rest := by
  match hnib : (op.extractLsb' 4 4).toNat with
  | 0x0 =>
    by_cases hop : op = 0x0F#8
    · exact ⟨_, .syscall hop, fun _ => by rw [hop]; rfl⟩
    · exact ⟨_, .illegal, fun _ => by simp [decode, hnib, hop]⟩
  | 0x4 => exact ⟨_, decodeIncDec_form p op hnib, fun _ => by simp [decode, hnib]⟩
  | 0x7 =>
    refine ⟨_, .jcc (op.extractLsb' 0 4) ?_, fun _ => by simp [decode, hnib]⟩
    rw [← BitVec.eq_of_toNat_eq (y := 7#4) hnib, highNibble_append_lowNibble]
  | 0x8 =>
    by_cases hop : op = 0x83#8
    · exact ⟨_, .aluImm hop, fun _ => by rw [hop]; rfl⟩
    · exact ⟨_, .illegal, fun _ => by simp [decode, hnib, hop]⟩
  | 0xA =>
    by_cases hop : op = 0xA0#8
    · exact ⟨_, .movAl hop, fun _ => by rw [hop]; rfl⟩
    · exact ⟨_, .illegal, fun _ => by simp [decode, hnib, hop]⟩
  | 0xB =>
    by_cases hbit : op.getLsbD 3 = true
    · have hop := (opcodeReg_movImm op hnib hbit).symm
      exact ⟨_, .movImm _ hop, fun _ => by simp only [decode, hnib, hbit, if_true]⟩
    · exact ⟨_, .illegal, fun _ => by simp only [decode, hnib, if_neg hbit]⟩
  | 0xC =>
    by_cases hop : op = 0xCF#8
    · exact ⟨_, .iret hop, fun _ => by rw [hop]; rfl⟩
    · exact ⟨_, .illegal, fun _ => by simp [decode, hnib, hop]⟩
  | 0xE =>
    by_cases hin : op = 0xE5#8
    · exact ⟨_, .inAx hin, fun _ => by rw [hin]; rfl⟩
    by_cases hout : op = 0xE7#8
    · exact ⟨_, .outAx hout, fun _ => by rw [hout]; rfl⟩
    by_cases hjmp : op = 0xEB#8
    · exact ⟨_, .jmp hjmp, fun _ => by rw [hjmp]; rfl⟩
    · exact ⟨_, .illegal, fun _ => by simp [decode, hnib, hin, hout, hjmp]⟩
  | 0xF =>
    by_cases hop : op = 0xF4#8
    · exact ⟨_, .hlt hop, fun _ => by rw [hop]; rfl⟩
    · exact ⟨_, .illegal, fun _ => by simp [decode, hnib, hop]⟩
  | 0x1 | 0x2 | 0x3 | 0x5 | 0x6 | 0x9 | 0xD => exact ⟨_, .illegal, fun _ => by simp only [decode, hnib]⟩
  | n + 16 =>
    have := (op.extractLsb' 4 4).isLt
    omega

/-! ## From an instruction to its bytes and back -/

/-- A word operand lies in the stream as its low byte and then its high byte (30_encoding.md R114). -/
@[simp] theorem decodeWord_bytes (k : Word → Instr) (w : Word) (rest : List Byte) :
    decodeWord k (lowByte w :: highByte w :: rest) = .ok (k w) := by
  rw [decodeWord, wordOfBytes_bytes]

/-- Settles O1: the first byte of each encoding selects the decoder that reads the operand bytes back. -/
theorem decodeEncodeRoundTrip : Obligations.DecodeEncodeRoundTrip := by
  unfold Obligations.DecodeEncodeRoundTrip
  intro p i rest hwf
  cases i with
  | movImm r v =>
    have hform : decode p (encode (.movImm r v) ++ rest) = decodeWord (.movImm r) (lowByte v :: highByte v :: rest) := by
      cases r <;> rfl
    rw [hform, decodeWord_bytes]
  | movAl a => exact decodeWord_bytes .movAl a rest
  | addImm r b => cases r <;> rfl
  | orImm r b => cases r <;> rfl
  | andImm r b => cases r <;> rfl
  | subImm r b => cases r <;> rfl
  | xorImm r b => cases r <;> rfl
  | cmpImm r b => cases r <;> rfl
  | incReg r =>
    obtain rfl : p = .x86 := eq_of_beq hwf
    cases r <;> rfl
  | decReg r =>
    obtain rfl : p = .x86 := eq_of_beq hwf
    cases r <;> rfl
  | _ => rfl

theorem decodeByte_eq_ok {k : Byte → Instr} {bs : List Byte} {i : Instr} (h : decodeByte k bs = .ok i) :
    ∃ b rest, bs = b :: rest ∧ i = k b := by
  cases bs with
  | nil => cases h
  | cons b rest => cases h; exact ⟨b, rest, rfl, rfl⟩

theorem decodeWord_eq_ok {k : Word → Instr} {bs : List Byte} {i : Instr} (h : decodeWord k bs = .ok i) :
    ∃ w rest, bs = lowByte w :: highByte w :: rest ∧ i = k w := by
  unfold decodeWord at h
  split at h
  · rename_i lo hi rest
    cases h
    exact ⟨wordOfBytes lo hi, rest, by simp, rfl⟩
  · cases h

theorem decodeSyscall_eq_ok {bs : List Byte} {i : Instr} (h : decodeSyscall bs = .ok i) :
    ∃ rest, bs = 0x05#8 :: rest ∧ i = .syscall := by
  unfold decodeSyscall at h
  split at h
  · cases h
  · rename_i b rest
    split at h
    · rename_i hb
      cases h
      exact ⟨rest, by rw [eq_of_beq hb], rfl⟩
    · cases h

/-- An ALU-immediate instruction is read from a ModRM byte with mod = 11 and an immediate byte. -/
theorem decodeAluImm_eq_ok {bs : List Byte} {i : Instr} (h : decodeAluImm bs = .ok i) :
    ∃ g r b rest, bs = modRm g r :: b :: rest ∧ aluImmOfReg g r b = some i := by
  unfold decodeAluImm at h
  split at h
  · cases h
  · rename_i m tail
    split at h
    · cases h
    · rename_i hmod
      have hm := modRm_fields m (by simpa using hmod)
      split at h
      · cases h
      · split at h
        · cases h
        · rename_i b rest
          split at h
          · rename_i hi
            cases h
            exact ⟨_, _, b, rest, by rw [hm], hi⟩
          · cases h

/-- Settles O2: by the first byte's form, each operand decoder gives back the bytes it read. -/
theorem decodedBytesAreTheEncoding : Obligations.DecodedBytesAreTheEncoding := by
  unfold Obligations.DecodedBytesAreTheEncoding
  intro p i bs h
  cases bs with
  | nil => cases h
  | cons op tail =>
    obtain ⟨f, hform, hdecode⟩ := decode_form p op
    rw [hdecode] at h
    cases hform with
    | syscall hop =>
      obtain ⟨rest, rfl, rfl⟩ := decodeSyscall_eq_ok h
      exact ⟨rfl, rest, by rw [hop]; rfl⟩
    | incReg r hp hop => cases h; exact ⟨beq_iff_eq.mpr hp, tail, by rw [hop]; rfl⟩
    | decReg r hp hop => cases h; exact ⟨beq_iff_eq.mpr hp, tail, by rw [hop]; rfl⟩
    | jcc cc hop =>
      obtain ⟨d, rest, rfl, rfl⟩ := decodeByte_eq_ok h
      exact ⟨jccOfNibble_wf p cc d, rest, by rw [hop, encode_jccOfNibble]; rfl⟩
    | aluImm hop =>
      obtain ⟨g, r, b, rest, rfl, hi⟩ := decodeAluImm_eq_ok h
      obtain ⟨henc, hwf⟩ := encode_aluImmOfReg hi
      exact ⟨hwf p, rest, by rw [hop, henc]; rfl⟩
    | movAl hop =>
      obtain ⟨w, rest, rfl, rfl⟩ := decodeWord_eq_ok h
      exact ⟨rfl, rest, by rw [hop]; rfl⟩
    | movImm r hop =>
      obtain ⟨w, rest, rfl, rfl⟩ := decodeWord_eq_ok h
      exact ⟨rfl, rest, by rw [hop]; rfl⟩
    | iret hop => cases h; exact ⟨rfl, tail, by rw [hop]; rfl⟩
    | inAx hop =>
      obtain ⟨b, rest, rfl, rfl⟩ := decodeByte_eq_ok h
      exact ⟨rfl, rest, by rw [hop]; rfl⟩
    | outAx hop =>
      obtain ⟨b, rest, rfl, rfl⟩ := decodeByte_eq_ok h
      exact ⟨rfl, rest, by rw [hop]; rfl⟩
    | jmp hop =>
      obtain ⟨b, rest, rfl, rfl⟩ := decodeByte_eq_ok h
      exact ⟨rfl, rest, by rw [hop]; rfl⟩
    | hlt hop => cases h; exact ⟨rfl, tail, by rw [hop]; rfl⟩
    | illegal => cases h

/-- Settles O3: the decoder reads each of the nine words. -/
theorem specWordsDecode : Obligations.SpecWordsDecode := by
  unfold Obligations.SpecWordsDecode
  decide

/-! ## Bytes that are no instruction (30_encoding.md R118) -/

/-- A conditional jump's opcode lies in 0x70–0x7F. -/
theorem jccOpcode_range (cc : BitVec 4) : 0x70 ≤ (7#4 ++ cc : Byte).toNat ∧ (7#4 ++ cc : Byte).toNat ≤ 0x7F := by
  revert cc; decide

theorem decode_illegal_opcode {p : IncDecOpcodes} {op : Byte} (rest : List Byte)
    (hmap : op ∉ [0x0F#8, 0x83#8, 0xA0#8, 0xCF#8, 0xE5#8, 0xE7#8, 0xEB#8, 0xF4#8])
    (hjcc : ¬ (0x70 ≤ op.toNat ∧ op.toNat ≤ 0x7F)) (hmov : ¬ (0xB8 ≤ op.toNat ∧ op.toNat ≤ 0xBF))
    (hincDec : ¬ (p = .x86 ∧ 0x40 ≤ op.toNat ∧ op.toNat ≤ 0x4F)) :
    decode p (op :: rest) = .error .undecodable := by
  obtain ⟨f, hform, hdecode⟩ := decode_form p op
  rw [hdecode]
  cases hform with
  | illegal => rfl
  | incReg r hp hop => cases r <;> simp [hop, hp, opcodeReg, reg16Index] at hincDec
  | decReg r hp hop => cases r <;> simp [hop, hp, opcodeReg, reg16Index] at hincDec
  | movImm r hop => cases r <;> simp [hop, opcodeReg, reg16Index] at hmov
  | jcc cc hop => exact absurd (hop ▸ jccOpcode_range cc) hjcc
  | _ hop => simp [hop] at hmap

/-- A ModRM byte below 0xC0 has another mod than 11. -/
theorem fieldMod_ne_of_lt (b : Byte) (hb : b.toNat < 0xC0) : fieldMod b ≠ 3#2 := by
  revert b; decide

/-- The ModRM bytes 0xD0–0xDF have mod = 11 and a reg field of 2 or 3. -/
theorem modRm_unknownAluOp (b : Byte) (hlo : 0xD0 ≤ b.toNat) (hhi : b.toNat ≤ 0xDF) :
    fieldMod b = 3#2 ∧ (fieldReg b = 2#3 ∨ fieldReg b = 3#3) := by
  revert b; decide

/-- Settles O4: an opcode of no form, and the tests on the second byte of 0x0F and of 0x83. -/
theorem illegalEncodingsAreRejected : Obligations.IllegalEncodingsAreRejected := by
  unfold Obligations.IllegalEncodingsAreRejected
  intro p op b rest
  refine ⟨decode_illegal_opcode rest, fun hb => ?_, fun hb => ?_, fun hlo hhi => ?_⟩
  · change decodeSyscall (b :: rest) = _
    simp [decodeSyscall, hb]
  · change decodeAluImm (b :: rest) = _
    simp [decodeAluImm, fieldMod_ne_of_lt b hb]
  · change decodeAluImm (b :: rest) = _
    obtain ⟨hmod, hreg⟩ := modRm_unknownAluOp b hlo hhi
    simp [decodeAluImm, hmod, hreg]

/-! ## Bytes that end early (30_encoding.md section 5) -/

/-- A decoder whose answer, unless it asks for more bytes, does not depend on what follows (40_engine_cycle.md R145). -/
def IgnoresRest (f : List Byte → Except Reject Instr) : Prop :=
  ∀ bs more, f bs ≠ .error .truncated → f (bs ++ more) = f bs

theorem ignoresRest_const (r : Except Reject Instr) : IgnoresRest (fun _ => r) := fun _ _ _ => rfl

theorem ignoresRest_decodeByte (k : Byte → Instr) : IgnoresRest (decodeByte k) := by
  intro bs more h
  match bs with
  | [] => exact absurd rfl h
  | b :: rest => rfl

theorem ignoresRest_decodeWord (k : Word → Instr) : IgnoresRest (decodeWord k) := by
  intro bs more h
  match bs with
  | [] | [_] => exact absurd rfl h
  | lo :: hi :: rest => rfl

theorem ignoresRest_decodeSyscall : IgnoresRest decodeSyscall := by
  intro bs more h
  match bs with
  | [] => exact absurd rfl h
  | b :: rest => rfl

theorem ignoresRest_decodeAluImm : IgnoresRest decodeAluImm := by
  intro bs more h
  match bs with
  | [] => exact absurd rfl h
  | [m] =>
    by_cases hmod : fieldMod m = 3#2
    · by_cases hreg : fieldReg m = 2#3 ∨ fieldReg m = 3#3
      · simp [decodeAluImm, hmod, hreg]
      · exact absurd (by simp [decodeAluImm, hmod, hreg]) h
    · simp [decodeAluImm, hmod]
  | m :: b :: rest => rfl

theorem ignoresRest_decode (p : IncDecOpcodes) : IgnoresRest (decode p) := by
  intro bs more h
  match bs with
  | [] => exact absurd rfl h
  | op :: rest =>
    obtain ⟨f, hform, hdecode⟩ := decode_form p op
    have hf : IgnoresRest f := by
      cases hform with
      | syscall => exact ignoresRest_decodeSyscall
      | aluImm => exact ignoresRest_decodeAluImm
      | jcc | inAx | outAx | jmp => exact ignoresRest_decodeByte _
      | movAl | movImm => exact ignoresRest_decodeWord _
      | incReg | decReg | iret | hlt | illegal => exact ignoresRest_const _
    rw [List.cons_append, hdecode, hdecode]
    exact hf rest more (hdecode rest ▸ h)

/-- The length of an encoding, for all instructions (30_encoding.md R117). -/
theorem encode_length (i : Instr) : (encode i).length = i.length := by
  cases i <;> rfl

/-- Settles O5: an answer to the cut bytes would be the answer to all of them, and no instruction is read from
fewer bytes than its encoding has. -/
theorem cutEncodingsAreTruncated : Obligations.CutEncodingsAreTruncated := by
  unfold Obligations.CutEncodingsAreTruncated
  intro p i n hwf hn
  by_contra hcut
  have hfull : decode p (encode i) = .ok i := by
    simpa using decodeEncodeRoundTrip p i [] hwf
  have hok : decode p ((encode i).take n) = .ok i := by
    rw [← ignoresRest_decode p _ ((encode i).drop n) hcut, List.take_append_drop, hfull]
  obtain ⟨-, rest, hbytes⟩ := decodedBytesAreTheEncoding p i _ hok
  have hlen := congrArg List.length hbytes
  rw [List.length_take, List.length_append, encode_length] at hlen
  omega

end Sys2Proof
end

section
/-! SUPPORT. The PCB table's fit as arithmetic, and whose move a step is (20_memory.md R100; log 9): one
equation per phase, and the inversion of a step. -/

namespace Sys2Proof.Machine

/-! ## The PCB table -/

theorem State.tableFits_iff {s : State} : s.tableFits = true ↔ s.cfg.pcbBase + 28 * s.pcbCount ≤ s.cfg.memSize :=
  decide_eq_true_iff

/-- A PCB of a table that fits (70_reset_and_hazards.md R344). -/
theorem State.hasPcb_of_lt {s : State} {n : Nat} (hn : n < s.pcbCount)
    (hfit : s.cfg.pcbBase + 28 * s.pcbCount ≤ s.cfg.memSize) : s.hasPcb n = true :=
  (s.hasPcb_iff n).mpr ⟨hn, State.tableFits_iff.mpr hfit⟩

/-! ## The move of a step -/

theorem step_schedule {s : State} (hm : s.machine = .running) (hp : s.phase = .schedule) : step s = scheduleTurn s := by
  simp only [step, hm, hp]

theorem step_engine {s : State} (hm : s.machine = .running) (hp : s.phase = .running) : step s = engineTurn s := by
  simp only [step, hm, hp]

theorem step_host {s : State} {k : TrapKind} {v : Vec6} (hm : s.machine = .running) (hp : s.phase = .suspended k v) :
    step s = hostMove s k := by
  simp only [step, hm, hp]

theorem step_returned {s : State} {sig : Signal} (hm : s.machine = .running) (hp : s.phase = .returned sig) :
    step s = endQuantum s sig := by
  simp only [step, hm, hp]

theorem step_stopping {s : State} {r : FatalReason} (hm : s.machine = .running) (hp : s.phase = .stopping r) :
    step s = stopTurn s r := by
  simp only [step, hm, hp]

theorem step_polling {s : State} (hm : s.machine = .running) (hp : s.phase = .polling) : step s = pollTurn s := by
  simp only [step, hm, hp]

/-- A machine that is FATAL or SHUTDOWN takes no step (60_exceptions.md R288). -/
theorem step_stopped {s : State} (hm : s.machine ≠ .running) : step s = .fault .machineStopped := by
  unfold step
  split
  · exact absurd ‹_› hm
  · rfl
  · rfl

/-- A step is the move of the agent that the phase names. -/
inductive StepMove (s t : State) : Prop where
  | schedule (phase : s.phase = .schedule) (turn : scheduleTurn s = .next t)
  | engine (phase : s.phase = .running) (turn : engineTurn s = .next t)
  | host (k : TrapKind) (v : Vec6) (phase : s.phase = .suspended k v) (turn : hostMove s k = .next t)
  | quantumEnd (sig : Signal) (phase : s.phase = .returned sig) (turn : endQuantum s sig = .next t)
  | machineStop (r : FatalReason) (phase : s.phase = .stopping r) (turn : stopTurn s r = .next t)
  | poll (phase : s.phase = .polling) (turn : pollTurn s = .next t)

theorem step_next {s t : State} (h : step s = .next t) : s.machine = .running ∧ StepMove s t := by
  by_cases hm : s.machine = .running
  · refine ⟨hm, ?_⟩
    cases hp : s.phase with
    | schedule => exact .schedule hp (step_schedule hm hp ▸ h)
    | running => exact .engine hp (step_engine hm hp ▸ h)
    | suspended k v => exact .host k v hp (step_host hm hp ▸ h)
    | returned sig => exact .quantumEnd sig hp (step_returned hm hp ▸ h)
    | stopping r => exact .machineStop r hp (step_stopping hm hp ▸ h)
    | polling => exact .poll hp (step_polling hm hp ▸ h)
  · rw [step_stopped hm] at h
    cases h

end Sys2Proof.Machine
end

section
/-! SUPPORT. The ALU instructions (41_alu.md sections 2, 3): the fields of the state after one, and the statements
about them. -/

namespace Sys2Proof

/-- An ADVANCE by `n` bytes in natural numbers (40_engine_cycle.md R150). -/
theorem toNat_add_word (x : Word) (n : Nat) : (x + BitVec.ofNat 16 n).toNat = (x.toNat + n) % 65536 := by
  simp [BitVec.toNat_add]

namespace Machine

/-! ## Frames -/

/-- Where only the register file differs, memory reads as before. -/
theorem OnlyRegs.sameMemory {s t : State} (h : OnlyRegs s t) : SameMemory s t := by
  intro g
  rw [h, State.setRegs_mem]

theorem onlyRegs_setRegs (s : State) (f : RegFile) : OnlyRegs s (s.setRegs f) := rfl

/-! ## The state after an ALU operation -/

theorem State.aluReg_onlyRegs (s : State) (op : AluOp) (r : Reg16) (b len : Word) : OnlyRegs s (s.aluReg op r b len) := by
  obtain ⟨f, hf, -⟩ := s.aluReg_eq op r b len
  exact hf ▸ onlyRegs_setRegs s f

theorem State.aluReg_reg_same (s : State) {op : AluOp} (hop : op ≠ .cmp) (r : Reg16) (b len : Word) :
    (s.aluReg op r b len).reg r = (aluApply op (s.reg r) b (flagBits s.flags)).result := by
  obtain ⟨f, hf, hr, -⟩ := s.aluReg_eq op r b len
  rw [if_neg hop] at hr
  exact hf ▸ hr

theorem State.aluReg_cmp_reg (s : State) (r : Reg16) (b len : Word) : (s.aluReg .cmp r b len).reg r = s.reg r := by
  obtain ⟨f, hf, hr, -⟩ := s.aluReg_eq .cmp r b len
  rw [if_pos rfl] at hr
  exact hf ▸ hr

theorem State.aluReg_sameRegsBut (s : State) (op : AluOp) (r : Reg16) (b len : Word) :
    SameRegsBut r s (s.aluReg op r b len) := by
  obtain ⟨f, hf, -, hne, -⟩ := s.aluReg_eq op r b len
  exact hf ▸ hne

@[simp] theorem State.aluReg_flags (s : State) (op : AluOp) (r : Reg16) (b len : Word) : (s.aluReg op r b len).flags =
    mergeFlags s.flags (aluApply op (s.reg r) b (flagBits s.flags)).flags := by
  obtain ⟨f, hf, -, -, hflags, -⟩ := s.aluReg_eq op r b len
  exact hf ▸ hflags

@[simp] theorem State.aluReg_flagBits (s : State) (op : AluOp) (r : Reg16) (b len : Word) :
    flagBits (s.aluReg op r b len).flags = (aluApply op (s.reg r) b (flagBits s.flags)).flags := by
  rw [State.aluReg_flags, flagBits_mergeFlags]

@[simp] theorem State.aluReg_ip (s : State) (op : AluOp) (r : Reg16) (b len : Word) :
    (s.aluReg op r b len).ip = s.ip + len := by
  obtain ⟨f, hf, -, -, -, hip⟩ := s.aluReg_eq op r b len
  exact hf ▸ hip

theorem State.aluReg_sameReservedFlags (s : State) (op : AluOp) (r : Reg16) (b len : Word) :
    SameReservedFlags s (s.aluReg op r b len) := by
  rw [SameReservedFlags, State.aluReg_flags, mergeFlags_reserved]

/-! ## ADD, OR, AND, SUB, XOR, and the frame of all eight -/

/-- Settles O16: the five are `State.aluReg` of an operation that writes its result. -/
theorem aluImmediateWritesResult : Obligations.AluImmediateWritesResult := by
  unfold Obligations.AluImmediateWritesResult
  intro rm imm s op i hmem
  have hexec : exec i s = .next (s.aluReg op rm (sext16 imm) 3#16) ∧ op ≠ .cmp := by
    simp only [List.mem_cons, Prod.mk.injEq, List.not_mem_nil, or_false] at hmem
    obtain ⟨rfl, rfl⟩ | ⟨rfl, rfl⟩ | ⟨rfl, rfl⟩ | ⟨rfl, rfl⟩ | ⟨rfl, rfl⟩ := hmem <;> exact ⟨rfl, by decide⟩
  obtain ⟨hnext, hop⟩ := hexec
  exact ⟨_, hnext, s.aluReg_reg_same hop rm _ _, s.aluReg_flagBits op rm _ _,
    by rw [State.aluReg_ip, toNat_add_word]⟩

/-- Settles O19: the eight are `State.aluReg` of some operation, operand and length. -/
theorem aluInstructionsFrame : Obligations.AluInstructionsFrame := by
  unfold Obligations.AluInstructionsFrame
  intro r imm s t i hmem h
  obtain ⟨op, b, len, rfl⟩ : ∃ op b len, t = s.aluReg op r b len := by
    simp only [List.mem_cons, List.not_mem_nil, or_false] at hmem
    obtain rfl | rfl | rfl | rfl | rfl | rfl | rfl | rfl := hmem <;> cases h <;> exact ⟨_, _, _, rfl⟩
  exact ⟨s.aluReg_sameRegsBut op r b len, State.aluReg_sameReservedFlags .., (State.aluReg_onlyRegs ..).sameMemory,
    State.aluReg_onlyRegs ..⟩

/-! ## INC and DEC (41_alu.md R198, R199) -/

/-- What INC and DEC have in common: CF is kept, ZF, SF and PF are the result's, IP is one byte on. -/
theorem State.aluReg_incDec (s : State) {op : AluOp} (hop : op = .inc ∨ op = .dec) (r : Reg16) :
    let t := s.aluReg op r 0#16 1#16
    t.flags.getLsbD 0 = s.flags.getLsbD 0 ∧ ResultFlagsOf (t.reg r) (flagBits t.flags) ∧
      t.ip.toNat = (s.ip.toNat + 1) % 65536 := by
  have hcmp : op ≠ .cmp := by rintro rfl; simp at hop
  have hcf : (aluApply op (s.reg r) 0#16 (flagBits s.flags)).flags.cf = (flagBits s.flags).cf := by
    obtain rfl | rfl := hop <;> rfl
  refine ⟨(congrArg FlagBits.cf (s.aluReg_flagBits op r 0#16 1#16)).trans hcf, ?_, ?_⟩
  · rw [State.aluReg_flagBits, s.aluReg_reg_same hcmp]
    exact aluApply_resultFlagsOf hcmp ..
  · rw [State.aluReg_ip, toNat_add_word]

/-- OF lies at bit 11 of FLAGS (10_state.md R40). -/
theorem State.aluReg_overflow (s : State) (op : AluOp) (r : Reg16) (b len : Word) :
    (s.aluReg op r b len).flags.getLsbD 11 = (aluApply op (s.reg r) b (flagBits s.flags)).flags.ov :=
  congrArg FlagBits.ov (s.aluReg_flagBits op r b len)

/-- Settles O18: INC and DEC are `State.aluReg` of operations whose flags the ALU laws give. -/
theorem incDecWriteResult : Obligations.IncDecWriteResult := by
  unfold Obligations.IncDecWriteResult
  intro r s
  constructor
  · obtain ⟨hcf, hresult, hip⟩ := s.aluReg_incDec (.inl rfl) r
    refine ⟨_, rfl, ?_, hcf, hresult, by rw [State.aluReg_overflow]; exact decide_eq_true_iff, hip⟩
    rw [s.aluReg_reg_same (by decide)]
    exact toNat_add_word (s.reg r) 1
  · obtain ⟨hcf, hresult, hip⟩ := s.aluReg_incDec (.inr rfl) r
    refine ⟨_, rfl, ?_, hcf, hresult, by rw [State.aluReg_overflow]; exact decide_eq_true_iff, hip⟩
    rw [s.aluReg_reg_same (by decide)]
    change (s.reg r - 1#16).toNat = _
    rw [BitVec.toNat_sub, Nat.add_comm]
    rfl

/-! ## CMP (41_alu.md R175, R196) -/

/-- What CMP writes: FLAGS, with SUB's flags, and IP. -/
theorem State.aluReg_cmp (s : State) (r : Reg16) (b len : Word) :
    let t := s.aluReg .cmp r b len
    t = (s.setFlags t.flags).setIp t.ip ∧ SameRegs s t ∧ SameMemory s t ∧ SameReservedFlags s t ∧ OnlyRegs s t ∧
      flagBits t.flags = (aluApply .sub (s.reg r) b (flagBits s.flags)).flags := by
  refine ⟨rfl, fun q => ?_, (s.aluReg_onlyRegs ..).sameMemory, s.aluReg_sameReservedFlags .., s.aluReg_onlyRegs ..,
    s.aluReg_flagBits .cmp r b len⟩
  by_cases hq : q = r
  · rw [hq, State.aluReg_cmp_reg]
  · exact s.aluReg_sameRegsBut .cmp r b len q hq

/-- Settles O13: CMP's flags are those of the difference that SUB computes; its instruction is `State.aluReg`. -/
theorem aluCompareKeepsOperand : Obligations.AluCompareKeepsOperand := by
  unfold Obligations.AluCompareKeepsOperand
  refine ⟨fun w _ a b fl => ⟨rfl, rfl, decide_eq_true_iff, subOverflow_iff_outsideSigned a b,
    resultFlagsOf_resultFlags (a - b) _ _⟩, fun rm imm s t h => ?_⟩
  cases h
  exact s.aluReg_cmp rm (sext16 imm) 3#16

/-- Settles O17: CMP's instruction completes as `State.aluReg` of CMP. -/
theorem compareImmediateWritesFlags : Obligations.CompareImmediateWritesFlags := by
  unfold Obligations.CompareImmediateWritesFlags
  intro rm imm s
  obtain ⟨heq, hregs, hmem, hreserved, honly, hflags⟩ := s.aluReg_cmp rm (sext16 imm) 3#16
  exact ⟨_, rfl, heq, hregs, hmem, hreserved, honly, hflags, by rw [State.aluReg_ip, toNat_add_word]⟩

end Machine
end Sys2Proof
end

section
/-! SUPPORT. The conditional jumps (42_control_transfer.md): what each tests and what a jump changes, with the
statements about them. -/

namespace Sys2Proof

namespace Machine

/-- A conditional jump whose condition, read off FLAGS, is `cond`. -/
theorem jumpsWhen_of_holds {mk : Byte → Instr} {cond : Word → Prop} (c : Cond)
    (hexec : ∀ rel s, exec (mk rel) s = .next (s.jumpIf c rel)) (hcond : ∀ f, c.holds (flagBits f) = true ↔ cond f) :
    JumpsWhen mk cond := by
  intro rel s
  refine ⟨_, hexec rel s, fun h => ?_, fun h => ?_, rfl⟩ <;> rw [State.jumpIf_eq, State.setIp_ip]
  · rw [if_pos ((hcond _).mpr h)]
    exact toNat_jumpTarget s.ip rel
  · rw [if_neg (mt (hcond _).mp h), toNat_add_word]

/-- Settles O20: each instruction jumps on its condition, and the condition's formula reads the FLAGS bits. -/
theorem conditionalJumpsTestFlags : Obligations.ConditionalJumpsTestFlags := by
  unfold Obligations.ConditionalJumpsTestFlags
  refine ⟨jumpsWhen_of_holds .o (fun _ _ => rfl) ?_, jumpsWhen_of_holds .no (fun _ _ => rfl) ?_,
    jumpsWhen_of_holds .b (fun _ _ => rfl) ?_, jumpsWhen_of_holds .nb (fun _ _ => rfl) ?_,
    jumpsWhen_of_holds .z (fun _ _ => rfl) ?_, jumpsWhen_of_holds .nz (fun _ _ => rfl) ?_,
    jumpsWhen_of_holds .s (fun _ _ => rfl) ?_, jumpsWhen_of_holds .ns (fun _ _ => rfl) ?_,
    jumpsWhen_of_holds .p (fun _ _ => rfl) ?_, jumpsWhen_of_holds .np (fun _ _ => rfl) ?_,
    jumpsWhen_of_holds .be (fun _ _ => rfl) ?_, jumpsWhen_of_holds .a (fun _ _ => rfl) ?_,
    jumpsWhen_of_holds .l (fun _ _ => rfl) ?_, jumpsWhen_of_holds .ge (fun _ _ => rfl) ?_,
    jumpsWhen_of_holds .le (fun _ _ => rfl) ?_, jumpsWhen_of_holds .g (fun _ _ => rfl) ?_⟩ <;>
  simp [Cond.holds, flagBits]

/-- Settles O23: every one of the seventeen sets IP and nothing else. -/
theorem jumpsFrame : Obligations.JumpsFrame := by
  unfold Obligations.JumpsFrame
  intro rel s t i hmem h
  obtain ⟨v, rfl⟩ : ∃ v, t = s.setIp v := by
    simp only [List.mem_cons, List.not_mem_nil, or_false] at hmem
    obtain rfl | rfl | rfl | rfl | rfl | rfl | rfl | rfl | rfl | rfl | rfl | rfl | rfl | rfl | rfl | rfl | rfl := hmem <;>
      cases h <;> exact ⟨_, rfl⟩
  exact ⟨fun q => RegFile.get_setIp .., rfl, fun _ => rfl, rfl⟩

/-! ## The orders that CMP leaves in FLAGS -/

/-- After a difference SF and OF differ where the first operand is below the second as signed words. -/
theorem msb_ne_subOverflow_iff (a b : Word) :
    ((a - b).msb != subOverflow a b (a - b)) = true ↔ a.toInt < b.toInt := by
  have hov := subOverflow_iff_outsideSigned a b
  rw [outsideSigned_iff_natCast] at hov
  have halo := a.le_toInt
  have hahi := a.toInt_lt
  have hblo := b.le_toInt
  have hbhi := b.toInt_lt
  rw [bne_iff_ne, ne_eq, Bool.eq_iff_iff, hov, BitVec.msb_eq_toInt, decide_eq_true_iff, BitVec.toInt_sub, Int.bmod_def]
  split <;> omega

/-- Sign extension keeps the signed value (00_scope.md R20). -/
theorem toInt_sext16 (b : Byte) : (sext16 b).toInt = b.toInt :=
  BitVec.toInt_signExtend_of_le (by decide)

/-- Settles O21: CF is the unsigned order, SF ≠ OF the signed one, ZF equality. -/
theorem jumpsAfterCompareTestOrder : Obligations.JumpsAfterCompareTestOrder := by
  unfold Obligations.JumpsAfterCompareTestOrder
  intro rm imm s t h
  cases h
  obtain ⟨-, -, -, -, -, hflags⟩ := s.aluReg_cmp rm (sext16 imm) 3#16
  rw [hflags]
  rw [← toInt_sext16 imm]
  have hb : (aluApply .sub (s.reg rm) (sext16 imm) (flagBits s.flags)).flags.cf = true ↔
      (s.reg rm).toNat < (sext16 imm).toNat := decide_eq_true_iff
  have hl := msb_ne_subOverflow_iff (s.reg rm) (sext16 imm)
  have hz : (aluApply .sub (s.reg rm) (sext16 imm) (flagBits s.flags)).flags.zf = true ↔ s.reg rm = sext16 imm :=
    beq_iff_eq.trans sub_eq_zero
  refine ⟨hb, hl, hz, ?_, ?_⟩
  · rw [Cond.holds, Bool.or_eq_true, hb, hz, ← BitVec.toNat_inj, Nat.le_iff_lt_or_eq]; rfl
  · rw [Cond.holds, Bool.or_eq_true, hz, ← BitVec.toInt_inj, le_iff_lt_or_eq, or_comm]
    exact or_congr hl Iff.rfl

end Machine
end Sys2Proof
end

section
/-! SUPPORT. The register-file interface's unknown identifiers (10_state.md R37) and the data movement instructions
(43_data_movement.md), with the statements about them. -/

namespace Sys2Proof.Machine

theorem regOfIdent_word_none {n : Nat} (hn : 10 ≤ n) : regOfIdent (.word n) = none :=
  List.getElem?_eq_none hn

theorem regOfIdent_byte_none {n : Nat} (hn : 8 ≤ n) : regOfIdent (.byte n) = none :=
  List.getElem?_eq_none hn

/-- An identifier that names no register begins the machine stop, on a read and on a write. -/
theorem State.unknownIdent_stops (s : State) {i : RegIdent} (hi : regOfIdent i = none) (k : Nat → Outcome) (v : Nat) :
    s.readIdent i k = .next { s with phase := .stopping .regUnknown } ∧
      s.writeIdent i v = { s with phase := .stopping .regUnknown } := by
  constructor
  · simp only [State.readIdent, hi]; rfl
  · simp only [State.writeIdent, hi]; rfl

/-- Settles O8: positions from 10 and indices from 8 on are in neither list of registers. -/
theorem unknownRegisterStops : Obligations.UnknownRegisterStops := by
  unfold Obligations.UnknownRegisterStops
  intro s n v k
  exact ⟨fun hn => s.unknownIdent_stops (regOfIdent_word_none hn) k v,
    fun hn => s.unknownIdent_stops (regOfIdent_byte_none hn) k v⟩

/-! ## A write to a register followed by an ADVANCE -/

theorem State.advance_ip (s : State) (n : Word) : (s.advance n).ip = s.ip + n := rfl

/-- Settles O24: a register write and an ADVANCE. -/
theorem moveImmediateLoadsRegister : Obligations.MoveImmediateLoadsRegister := by
  unfold Obligations.MoveImmediateLoadsRegister
  intro r imm s
  refine ⟨(s.setReg r imm).advance 3#16, rfl, ?_, fun q hq => ?_, ?_, ?_, fun _ => rfl, rfl⟩
  · simp [State.reg_eq, State.advance_eq, State.setReg_eq]
  · simp [State.reg_eq, State.advance_eq, State.setReg_eq, hq]
  · simp [State.flags, State.advance_eq, State.setReg_eq]
  · rw [State.advance_ip, toNat_add_word]
    simp [State.ip, State.setReg_eq]

/-- Writing the low byte of a word keeps its high byte (10_state.md R36). -/
theorem toNat_get_setByte_al (f : RegFile) (b : Byte) :
    ((f.setByte .al b).get .ax).toNat = (f.get .ax).toNat / 256 * 256 + b.toNat := by
  rw [RegFile.setByte]
  change (wordOfBytes b (highByte (f.get .ax))).toNat = _
  rw [toNat_wordOfBytes, toNat_highByte]

theorem execMovAl_value {s : State} {a : Word} {g : Nat} (ht : translate s.ctx.segs a.toNat 4 = some g)
    (hg : g < s.cfg.memSize) :
    exec (.movAl a) s = .next ((s.setRegs (s.ctx.regs.setByte .al (s.mem.read g))).advance 3#16) := by
  rw [exec, execMovAl, s.loadByte_value a ht hg]

/-- Settles O25: the operand has a value, and AL is written with it. -/
theorem moveByteLoadsLowByte : Obligations.MoveByteLoadsLowByte := by
  unfold Obligations.MoveByteLoadsLowByte
  intro a s g ht hg
  refine ⟨_, execMovAl_value ht hg, ?_, fun q hq => ?_, ?_, ?_, fun _ => rfl, rfl⟩
  · rw [State.reg_eq, State.advance_eq, State.setRegs_ctx_regs, RegFile.get_setIp]
    exact toNat_get_setByte_al ..
  · rw [State.reg_eq, State.advance_eq, State.setRegs_ctx_regs, RegFile.get_setIp]
    exact RegFile.get_setByte_ne _ _ hq
  · simp [State.flags, State.advance_eq]
  · rw [State.advance_ip, toNat_add_word]
    simp [State.ip]

/-- Settles O26: a failed translation and an address past the memory are the operand's two other cases. -/
theorem moveByteFaults : Obligations.MoveByteFaults := by
  unfold Obligations.MoveByteFaults
  refine fun a s => ⟨fun ht => ?_, fun g ht hg => ?_⟩ <;> rw [exec, execMovAl]
  · rw [s.loadByte_fail a ht]; rfl
  · rw [s.loadByte_outside a ht hg]; rfl

end Sys2Proof.Machine
end

section
/-! SUPPORT. The system instructions (44_system.md), with the statements about them. -/

namespace Sys2Proof.Machine

/-! ## SYSCALL -/

/-- Settles O27: the snapshot is read off the running register file. -/
theorem syscallPresentsRegisters : Obligations.SyscallPresentsRegisters := by
  unfold Obligations.SyscallPresentsRegisters
  exact fun _ => rfl

/-- The host's move once its acts have been taken (60_exceptions.md R331). -/
theorem hostMove_eq {s u : State} {k : TrapKind} (h : s.takeAnswer.hostEffects s.hostAnswer.effects = some u) :
    hostMove s k = .next (u.trapReturn k s.hostAnswer.reply) := by
  rw [hostMove, h]

/-- A resume writes the six registers of the answer and moves IP past the opcode bytes (44_system.md R251). -/
theorem State.syscallReturn_resume (s : State) (v : Vec6) : s.syscallReturn (.resume v) =
    { s with phase := .running, ctx := { s.ctx with
        regs := (s.ctx.regs.setVector v).setIp (s.ctx.regs.ip + 2#16) } } := rfl

/-- Settles O28: the host's acts keep the context, and `State.syscallReturn` has one case per reply. -/
theorem syscallAnswerResumesOrAborts : Obligations.SyscallAnswerResumesOrAborts := by
  unfold Obligations.SyscallAnswerResumesOrAborts
  intro s u v hm hp hacts
  have hkeeps := State.hostEffects_keeps hacts
  have hctx : u.ctx = s.ctx := hkeeps.ctx
  have hdraws : u.draws = s.draws + 1 := hkeeps.draws
  refine ⟨_, (step_host hm hp).trans (hostMove_eq hacts), ?_⟩
  rw [State.trapReturn]
  cases s.hostAnswer.reply with
  | resume w =>
    rw [State.syscallReturn_resume, hctx]
    exact ⟨hkeeps.answers, hdraws, rfl, ⟨rfl, rfl, rfl, rfl, rfl, rfl⟩, toNat_add_word s.ip 2, rfl, rfl, rfl, rfl, rfl⟩
  | abort n => exact ⟨hkeeps.answers, hdraws, rfl, rfl, hctx⟩

/-! ## IN and OUT -/

/-- IN at ring 0 with a driver on the port (44_system.md R255). -/
theorem execInAx_kernel {s : State} {p : Byte} {d : Driver} (hr : s.ctx.ring = 0#8) (hd : s.driverAt p = some d) :
    exec (.inAx p) s =
      .next (((s.callDriver p Driver.afterRead).countDraw.setReg .ax (s.portValue d)).advance 2#16) := by
  rw [exec, execInAx, State.atRing0_kernel _ hr, hd]

/-- OUT at ring 0 with a driver on the port (44_system.md R257). -/
theorem execOutAx_kernel {s : State} {p : Byte} {d : Driver} (hr : s.ctx.ring = 0#8) (hd : s.driverAt p = some d) :
    exec (.outAx p) s =
      .next ((s.callDriver p (fun d => d.afterWrite (s.ctx.regs.getByte .al))).advance 2#16) := by
  rw [exec, execOutAx, State.atRing0_kernel _ hr, hd]

theorem toNat_zext16 (b : Byte) : (zext16 b).toNat = b.toNat := by
  have hb := b.isLt
  rw [zext16, BitVec.toNat_setWidth]
  omega

/-- Settles O29: the driver is read, AX is the port's value, and the registry changes at one port. -/
theorem portReadWritesAx : Obligations.PortReadWritesAx := by
  unfold Obligations.PortReadWritesAx
  intro p s d hr hd
  have hdrivers := fun q => s.driverAt_callDriver p q Driver.afterRead fun _ => rfl
  refine ⟨_, execInAx_kernel hr hd, fun b hb => ?_, fun hb => ?_, ?_, fun q hq => ?_, fun q hq => ?_, rfl,
    toNat_add_word s.ip 2, fun _ => rfl, rfl⟩
  · change (s.portValue d).toNat = _
    simp only [State.portValue, hb, toNat_zext16]
  · change s.portValue d = _
    simp only [State.portValue, hb]
  · exact (hdrivers p).trans (by rw [if_pos rfl, hd]; rfl)
  · exact (hdrivers q).trans (if_neg hq)
  · exact RegFile.get_set_ne s.ctx.regs _ hq

/-- Settles O30: the driver receives AL, and the registry changes at one port. -/
theorem portWriteSendsLowByte : Obligations.PortWriteSendsLowByte := by
  unfold Obligations.PortWriteSendsLowByte
  intro p s d hr hd
  have hdrivers := fun q => s.driverAt_callDriver p q (fun d => d.afterWrite (s.ctx.regs.getByte .al)) fun _ => rfl
  refine ⟨_, execOutAx_kernel hr hd, ?_, fun q hq => ?_, fun q => RegFile.get_setIp .., rfl,
    toNat_add_word s.ip 2, fun _ => rfl, rfl⟩
  · refine (hdrivers p).trans ?_
    rw [if_pos rfl, hd, ← lowByte_eq_ofNat]; rfl
  · exact (hdrivers q).trans (if_neg hq)

/-- Settles O31: the port's lookup finds no driver. -/
theorem unmappedPortStops : Obligations.UnmappedPortStops := by
  unfold Obligations.UnmappedPortStops
  intro p s i hmem hr hports
  have hnone : s.driverAt p = none := by
    rw [State.driverAt, List.find?_eq_none]
    simpa using hports
  simp only [List.mem_cons, List.not_mem_nil, or_false] at hmem
  obtain rfl | rfl := hmem
  · rw [exec, execInAx, State.atRing0_kernel _ hr, hnone]; rfl
  · rw [exec, execOutAx, State.atRing0_kernel _ hr, hnone]; rfl

/-! ## IRET, HLT and privilege -/

/-- Settles O32: at ring 0 the privilege check lets IRET's body through. -/
theorem interruptReturnEndsQuantum : Obligations.InterruptReturnEndsQuantum := by
  unfold Obligations.InterruptReturnEndsQuantum
  intro s hr
  exact ⟨(s.advance 1#16).stop .intDone, State.atRing0_kernel _ hr, rfl, toNat_add_word s.ip 1,
    fun q => RegFile.get_setIp .., rfl, fun _ => rfl, rfl⟩

/-- The privilege check turns the four away (40_engine_cycle.md R147). -/
theorem exec_privileged_user {i : Instr} {s : State} (hi : isPrivileged i = true) (hr : s.ctx.ring ≠ 0#8) :
    exec i s = .next (s.stop .privFault) := by
  cases i with
  | inAx p => exact State.atRing0_user _ hr
  | outAx p => exact State.atRing0_user _ hr
  | iret => exact State.atRing0_user _ hr
  | hlt => exact State.atRing0_user _ hr
  | _ => cases hi

/-- Settles O34: the four are the privileged instructions. -/
theorem privilegedAtUserRingFaults : Obligations.PrivilegedAtUserRingFaults := by
  unfold Obligations.PrivilegedAtUserRingFaults
  intro p s i hmem hr
  refine exec_privileged_user ?_ hr
  simp only [List.mem_cons, List.not_mem_nil, or_false] at hmem
  obtain rfl | rfl | rfl | rfl := hmem <;> rfl

/-- A machine stop with a PCB table that fits writes back and becomes FATAL with its dump (log 15). -/
theorem step_stopping_eq {s : State} {r : FatalReason} (hm : s.machine = .running) (hp : s.phase = .stopping r)
    (hn : s.ctx.pcb < s.pcbCount) (hfit : s.cfg.pcbBase + 28 * s.pcbCount ≤ s.cfg.memSize) :
    step s = .next ((s.writeback s.ctx.statusWord).stopMachine r) := by
  rw [step_stopping hm hp, stopTurn, if_pos (State.hasPcb_of_lt hn hfit)]

/-- The dump of a machine stop in an invocation, after its writeback (60_exceptions.md R286). -/
theorem machine_stop_writeback (s : State) (w : Word) (r : FatalReason) :
    ((s.writeback w).stopMachine r).machine = .fatal r ⟨s.ctx.regs, s.ctx.trace⟩ := by
  simp

/-- Settles O33: HLT begins the stop, the stop's own move makes it, and a stopped machine takes no step. -/
theorem haltStopsMachine : Obligations.HaltStopsMachine := by
  unfold Obligations.HaltStopsMachine
  refine ⟨rfl, rfl, fun s => ⟨fun hr => ⟨State.atRing0_kernel _ hr, fun hm hn hfit => ?_⟩,
    fun hr => exec_privileged_user rfl hr⟩⟩
  have hdump := machine_stop_writeback (s.fatal .halt) s.ctx.statusWord .halt
  exact ⟨_, step_stopping_eq (s := s.fatal .halt) hm rfl hn hfit, hdump,
    step_stopped fun hrun => by cases hdump.symm.trans hrun⟩

end Sys2Proof.Machine
end

section
/-! SUPPORT. Rules over all instructions (10_state.md sections 2, 4, 7; 60_exceptions.md section 5), with the
statements about them. -/

namespace Sys2Proof.Machine

/-! ## Totality and the frame -/

theorem State.atRing0_total (s body : State) : ∃ t, s.atRing0 body = .next t := by
  unfold State.atRing0
  split <;> exact ⟨_, rfl⟩

theorem execMovAl_total (a : Word) (s : State) : ∃ t, execMovAl a s = .next t := by
  unfold execMovAl
  split <;> exact ⟨_, rfl⟩

/-- No arm faults or refuses. -/
theorem exec_total (i : Instr) (s : State) : ∃ t, exec i s = .next t := by
  cases i with
  | movAl a => exact execMovAl_total a s
  | inAx p => exact s.atRing0_total _
  | outAx p => exact s.atRing0_total _
  | iret => exact s.atRing0_total _
  | hlt => exact s.atRing0_total _
  | _ => exact ⟨_, rfl⟩

/-- Settles O35: the privileged arms and MOV AL have a next state on each of their paths, the others have one path. -/
theorem everyInstructionAnswers : Obligations.EveryInstructionAnswers := by
  unfold Obligations.EveryInstructionAnswers
  exact exec_total

/-- Settles O36: no shape of `ExecEffect` touches one of these fields. -/
theorem noInstructionWritesSystemState : Obligations.NoInstructionWritesSystemState := by
  unfold Obligations.NoInstructionWritesSystemState
  intro i s t h
  cases exec_next h <;> exact ⟨fun _ => rfl, rfl, rfl, rfl, rfl, rfl, rfl, rfl, rfl⟩

/-! ## FLAGS -/

/-- The instructions that write FLAGS are ALU operations on a register. -/
theorem exec_writesFlags {i : Instr} (hi : writesFlags i = true) :
    ∃ op r b len, ∀ s, exec i s = .next (s.aluReg op r b len) := by
  cases i with
  | addImm r b => exact ⟨.add, r, _, _, fun _ => rfl⟩
  | orImm r b => exact ⟨.or, r, _, _, fun _ => rfl⟩
  | andImm r b => exact ⟨.and, r, _, _, fun _ => rfl⟩
  | subImm r b => exact ⟨.sub, r, _, _, fun _ => rfl⟩
  | xorImm r b => exact ⟨.xor, r, _, _, fun _ => rfl⟩
  | cmpImm r b => exact ⟨.cmp, r, _, _, fun _ => rfl⟩
  | incReg r => exact ⟨.inc, r, _, _, fun _ => rfl⟩
  | decReg r => exact ⟨.dec, r, _, _, fun _ => rfl⟩
  | _ => cases hi

theorem State.setReg_flags (s : State) (r : Reg16) (v : Word) : (s.setReg r v).flags = s.flags := RegFile.set_flags ..

theorem execMovAl_flags {a : Word} {s t : State} (h : execMovAl a s = .next t) : t.flags = s.flags := by
  unfold execMovAl at h
  split at h <;> cases h
  · exact RegFile.setByte_flags ..
  · rfl
  · rfl

theorem execInAx_flags {p : Byte} {s t : State} (h : execInAx p s = .next t) : t.flags = s.flags := by
  obtain ⟨-, rfl⟩ | ⟨-, rfl⟩ := State.atRing0_next h
  · split
    · rfl
    · exact State.setReg_flags ..
  · rfl

theorem execOutAx_flags {p : Byte} {s t : State} (h : execOutAx p s = .next t) : t.flags = s.flags := by
  obtain ⟨-, rfl⟩ | ⟨-, rfl⟩ := State.atRing0_next h
  · split <;> rfl
  · rfl

/-- The other instructions keep FLAGS. -/
theorem exec_flags {i : Instr} {s t : State} (hi : writesFlags i = false) (h : exec i s = .next t) : t.flags = s.flags := by
  cases i with
  | addImm | orImm | andImm | subImm | xorImm | cmpImm | incReg | decReg => cases hi
  | movImm r v => cases h; exact State.setReg_flags ..
  | movAl a => exact execMovAl_flags h
  | inAx p => exact execInAx_flags h
  | outAx p => exact execOutAx_flags h
  | iret => obtain ⟨-, rfl⟩ | ⟨-, rfl⟩ := State.atRing0_next h <;> rfl
  | hlt => obtain ⟨-, rfl⟩ | ⟨-, rfl⟩ := State.atRing0_next h <;> rfl
  | _ => cases h; rfl

/-- Settles O37: an instruction either is an ALU operation, whose merge keeps the reserved bits, or keeps FLAGS. -/
theorem flagsWrittenByAluOnly : Obligations.FlagsWrittenByAluOnly := by
  unfold Obligations.FlagsWrittenByAluOnly
  intro i s t h
  cases hi : writesFlags i with
  | true =>
    obtain ⟨op, r, b, len, halu⟩ := exec_writesFlags hi
    cases (halu s).symm.trans h
    exact ⟨s.aluReg_sameReservedFlags op r b len, nofun⟩
  | false =>
    have hflags := exec_flags hi h
    exact ⟨by rw [SameReservedFlags, hflags], fun _ => hflags⟩

/-! ## The user rings -/

/-- The shapes of an instruction's next state at a non-zero ring (60_exceptions.md section 5). -/
inductive UserEffect (s : State) : State → Prop where
  | completes (f : RegFile) : UserEffect s (s.setRegs f)
  | suspends (v : Vec6) : UserEffect s (s.trapCall .syscall v)
  | ends (sig : Signal) : UserEffect s (s.stop sig)
  | outside : UserEffect s (s.fatal .bounds)

theorem UserEffect.aluReg (s : State) (op : AluOp) (r : Reg16) (b len : Word) : UserEffect s (s.aluReg op r b len) := by
  obtain ⟨f, hf, -⟩ := s.aluReg_eq op r b len
  exact hf ▸ .completes f

theorem execMovAl_user {a : Word} {s t : State} (h : execMovAl a s = .next t) : UserEffect s t := by
  unfold execMovAl at h
  split at h <;> cases h
  · exact .completes _
  · exact .ends _
  · exact .outside

theorem exec_user {i : Instr} {s t : State} (hr : s.ctx.ring ≠ 0#8) (h : exec i s = .next t) : UserEffect s t := by
  cases i with
  | inAx | outAx | iret | hlt => cases (exec_privileged_user rfl hr).symm.trans h; exact .ends _
  | addImm | orImm | andImm | subImm | xorImm | cmpImm | incReg | decReg => cases h; exact .aluReg ..
  | movAl a => exact execMovAl_user h
  | syscall => cases h; exact .suspends _
  | _ => cases h; exact .completes _

/-- Settles O38: no shape of `UserEffect` reaches a driver, and the one stop among them is BOUNDS. -/
theorem userRingCannotReachDevices : Obligations.UserRingCannotReachDevices := by
  unfold Obligations.UserRingCannotReachDevices
  intro i s t hr h
  cases exec_user hr h with
  | completes f => exact ⟨rfl, rfl, rfl, fun _ hp => .inl hp⟩
  | suspends v => exact ⟨rfl, rfl, rfl, nofun⟩
  | ends sig => exact ⟨rfl, rfl, rfl, nofun⟩
  | outside => exact ⟨rfl, rfl, rfl, fun r hp => .inr (Phase.stopping.inj hp).symm⟩

end Sys2Proof.Machine
end

section
/-! SUPPORT. The engine's loop (40_engine_cycle.md): one equation per outcome of a turn, with the statements about it. -/

namespace Sys2Proof.Machine

/-! ## A turn of the engine -/

theorem engineTurn_executes {s : State} {g : Nat} {i : Instr} (hlt : s.ctx.steps < s.cfg.quantum)
    (ht : translate s.ctx.segs s.ip.toNat 1 = some g) (hd : decode s.cfg.incdec (s.window g) = .ok i) :
    engineTurn s = exec i (s.countStep.noteExecuted i) := by
  have ht' : s.countStep.translate s.countStep.ip maskExecute = some g := ht
  have hd' : decode s.countStep.cfg.incdec (s.countStep.window g) = .ok i := hd
  rw [engineTurn, if_pos hlt, runInstruction, ht']
  simp only [hd']

theorem engineTurn_rejects {s : State} {g : Nat} {r : Reject} (hlt : s.ctx.steps < s.cfg.quantum)
    (ht : translate s.ctx.segs s.ip.toNat 1 = some g) (hd : decode s.cfg.incdec (s.window g) = .error r) :
    engineTurn s = .next (s.countStep.fatal (rejectReason r)) := by
  have ht' : s.countStep.translate s.countStep.ip maskExecute = some g := ht
  have hd' : decode s.countStep.cfg.incdec (s.countStep.window g) = .error r := hd
  rw [engineTurn, if_pos hlt, runInstruction, ht']
  simp only [hd']

theorem engineTurn_fetchFault {s : State} (hlt : s.ctx.steps < s.cfg.quantum)
    (ht : translate s.ctx.segs s.ip.toNat 1 = none) : engineTurn s = .next s.countStep.fetchFault := by
  have ht' : s.countStep.translate s.countStep.ip maskExecute = none := ht
  rw [engineTurn, if_pos hlt, runInstruction, ht']

theorem engineTurn_spent {s : State} (hspent : s.cfg.quantum ≤ s.ctx.steps) :
    engineTurn s = .next (s.stop .quantumDone) :=
  if_neg (Nat.not_lt.mpr hspent)

/-- Settles O39: the turn's equation where an instruction is decoded. -/
theorem stepRunsDecodedInstruction : Obligations.StepRunsDecodedInstruction := by
  unfold Obligations.StepRunsDecodedInstruction
  intro s g i hm hp hlt ht hd
  exact (step_engine hm hp).trans (engineTurn_executes hlt ht hd)

/-- Settles O43: the turn's equation where the budget is spent. -/
theorem spentBudgetEndsQuantum : Obligations.SpentBudgetEndsQuantum := by
  unfold Obligations.SpentBudgetEndsQuantum
  intro s hm hp hspent
  exact (step_engine hm hp).trans (engineTurn_spent hspent)

/-! ## The fetch window -/

theorem State.window_getElem? (s : State) {g k : Nat} (hk : k < fetchWindow) (hg : g + k < s.cfg.memSize) :
    (s.window g)[k]? = some (s.mem.read (g + k)) := by
  simp only [State.window, List.getElem?_map]
  rw [List.getElem?_range (by omega), Option.map_some]

theorem instrLength_le (i : Instr) : i.length ≤ longestInstr := by
  unfold Instr.length
  split <;> decide

/-- The window at an encoding that lies in the memory begins with it (40_engine_cycle.md R145). -/
theorem State.window_eq_encode_append (s : State) {g : Nat} {i : Instr} (hend : g + i.length ≤ s.cfg.memSize)
    (hbytes : ∀ k, k < i.length → (encode i)[k]? = some (s.mem.read (g + k))) :
    ∃ rest, s.window g = encode i ++ rest := by
  have hlen : i.length ≤ 3 := instrLength_le i
  refine ⟨(s.window g).drop i.length, ?_⟩
  have htake : (s.window g).take i.length = encode i := by
    apply List.ext_getElem?
    intro k
    by_cases hk : k < i.length
    · rw [List.getElem?_take_of_lt hk, s.window_getElem? (by rw [fetchWindow]; omega) (by omega), hbytes k hk]
    · rw [List.getElem?_take_eq_none (by omega), List.getElem?_eq_none (by rw [encode_length]; omega)]
  rw [← htake, List.take_append_drop]

/-- Settles O40: the window begins with the encoding, and decoding gives the instruction back. -/
theorem stepRunsEncodedInstruction : Obligations.StepRunsEncodedInstruction := by
  unfold Obligations.StepRunsEncodedInstruction
  intro s g i hm hp hlt ht hwf hend hbytes
  obtain ⟨rest, hwindow⟩ := s.window_eq_encode_append hend hbytes
  have hd : decode s.cfg.incdec (s.window g) = .ok i := by
    rw [hwindow]
    exact decodeEncodeRoundTrip _ i rest hwf
  exact stepRunsDecodedInstruction s g i hm hp hlt ht hd

/-! ## Fetch faults and undecodable bytes -/

/-- The fetch fault changes the phase only, as the ring says (40_engine_cycle.md R144). -/
theorem State.fetchFault_eq (s : State) : s.fetchFault = { s with
    phase := if s.ctx.ring = 0#8 then .returned .memFault else .suspended .fetchFault zeroVector } := by
  unfold State.fetchFault
  split <;> rfl

/-- Settles O41: the turn's equation where the fetch faults, and the host's move for that trap call. -/
theorem fetchFaultEndsInMemFault : Obligations.FetchFaultEndsInMemFault := by
  unfold Obligations.FetchFaultEndsInMemFault
  refine ⟨fun s hm hp hlt ht => ⟨_, (step_engine hm hp).trans (engineTurn_fetchFault hlt ht), ?_⟩,
    fun s t v hm hp h => ?_⟩
  · rw [State.fetchFault_eq]
    exact ⟨rfl, fun _ => rfl, rfl⟩
  · rw [step_host hm hp] at h
    obtain ⟨u, hu, rfl⟩ := hostMove_next h
    exact ⟨rfl, hu.ctx, hu.machine.trans hm⟩

/-- Settles O42: the turn's equation where the decoder rejects, and then the stop's own move. -/
theorem undecodableBytesStopMachine : Obligations.UndecodableBytesStopMachine := by
  unfold Obligations.UndecodableBytesStopMachine
  intro s g r hm hp hlt ht hd
  refine ⟨_, rejectReason r, (step_engine hm hp).trans (engineTurn_rejects hlt ht hd), by cases r <;> rfl, rfl, rfl,
    fun _ => rfl, fun hn hfit => ?_⟩
  exact ⟨_, step_stopping_eq (s := s.countStep.fatal (rejectReason r)) hm rfl hn hfit,
    machine_stop_writeback (s.countStep.fatal (rejectReason r)) s.ctx.statusWord (rejectReason r)⟩

end Sys2Proof.Machine
end

section
/-! SUPPORT. The scheduler (60_exceptions.md section 6): one equation per outcome of its turns, and what a writeback
leaves in the block, with the statements about them. -/

namespace Sys2Proof.Machine

/-! ## Selection and load -/

theorem scheduleTurn_loads {s : State} {n : Nat} (hn : s.sched.members[s.sched.next]? = some n)
    (hpcb : s.hasPcb n = true) (hrun : s.runnable n = true) :
    scheduleTurn s = .next { s.nextMember true with ctx := s.contextOf n, phase := .running } := by
  rw [scheduleTurn, hn]
  simp only [hpcb, hrun, if_true]

theorem scheduleTurn_skips {s : State} {n : Nat} (hn : s.sched.members[s.sched.next]? = some n)
    (hpcb : s.hasPcb n = true) (hrun : s.runnable n = false) :
    scheduleTurn s = .next (s.nextMember s.sched.ran) := by
  rw [scheduleTurn, hn]
  simp [hpcb, hrun]

theorem scheduleTurn_passEnds {s : State} (hend : s.sched.members[s.sched.next]? = none) :
    scheduleTurn s = .next (if s.sched.ran then s.startPass else { s.startPass with phase := .polling }) := by
  rw [scheduleTurn, hend]

/-- The register file of a block, word by word in layout order (10_state.md R51). -/
theorem State.pcbRegs_words (s : State) (n : Nat) {j : Nat} {w : Word}
    (hw : (RegFile.words (s.pcbRegs n))[j]? = some w) : w = s.mem.readWord (s.pcbAddr n + 8 + 2 * j) := by
  have hj : j < 10 := (List.getElem?_eq_some_iff.mp hw).1
  interval_cases j <;> cases hw <;> rfl

/-- Settles O44: the turn's equation where the member is runnable; the context is its block's. -/
theorem schedulerLoadsContext : Obligations.SchedulerLoadsContext := by
  unfold Obligations.SchedulerLoadsContext
  intro s n hm hp hmember hn hfit hrun
  exact ⟨_, (step_schedule hm hp).trans (scheduleTurn_loads hmember (State.hasPcb_of_lt hn hfit) hrun),
    rfl, rfl, rfl, rfl, rfl, rfl, rfl, rfl, fun j w hw => s.pcbRegs_words n hw, rfl, fun _ => rfl⟩

/-- Settles O45: the turn's equations where the member is not runnable and where the pass has ended. -/
theorem schedulerSkipsAndBeginsPass : Obligations.SchedulerSkipsAndBeginsPass := by
  unfold Obligations.SchedulerSkipsAndBeginsPass
  intro s hm hp
  refine ⟨fun n hmember hn hfit hrun => ?_, fun hend => ?_⟩ <;> rw [step_schedule hm hp]
  · rw [scheduleTurn_skips hmember (State.hasPcb_of_lt hn hfit) hrun]; rfl
  · rw [scheduleTurn_passEnds (List.getElem?_eq_none hend), ← hp]
    cases s.sched.ran <;> rfl

/-! ## The end of a quantum -/

theorem endQuantum_keeps {s : State} {sig : Signal} (hpcb : s.hasPcb s.ctx.pcb = true)
    (hv : interpret s.cfg.onSyscallAbort s.ctx.ring sig = .keep) :
    endQuantum s sig = .next { s.writeback s.ctx.statusWord with phase := .polling } := by
  rw [endQuantum, if_pos hpcb, hv]

theorem endQuantum_setsStatus {s : State} {sig : Signal} {st : Status} (hpcb : s.hasPcb s.ctx.pcb = true)
    (hv : interpret s.cfg.onSyscallAbort s.ctx.ring sig = .setStatus st) :
    endQuantum s sig = .next { s.writeback (statusWordOf s.cfg.statusCode st) with phase := .polling } := by
  rw [endQuantum, if_pos hpcb, hv]

/-- MEM_FAULT of a ring-0 process is KERNEL_FAULT (60_exceptions.md R303). -/
theorem endQuantum_kernelFault {s : State} (hpcb : s.hasPcb s.ctx.pcb = true) (hr : s.ctx.ring = 0#8) :
    endQuantum s .memFault = .next (s.fatal .kernelFault) := by
  have hv : interpret s.cfg.onSyscallAbort s.ctx.ring .memFault = .kernelStop := if_pos hr
  rw [endQuantum, if_pos hpcb, hv]

/-- A state whose memory and parameters a writeback of `w` has left holds `w` as the block's status. -/
theorem State.pcbStatus_of_writebackMem {s t : State} {w : Word} (hcfg : t.cfg = s.cfg) (hmem : t.mem = s.writebackMem w)
    (hpcb : s.hasPcb s.ctx.pcb = true) (hwf : s.mem.wf s.cfg.memSize = true) : t.pcbStatus s.ctx.pcb = w := by
  have haddr : t.pcbAddr s.ctx.pcb = s.pcbAddr s.ctx.pcb := by rw [State.pcbAddr, hcfg, State.pcbAddr]
  rw [State.pcbStatus, haddr, hmem]
  exact State.readWord_writebackMem_status w (State.hasPcb_fits hpcb) hwf

/-- Such a state holds the running register file in the block. -/
theorem State.pcbRegs_of_writebackMem {s t : State} {w : Word} (hcfg : t.cfg = s.cfg) (hmem : t.mem = s.writebackMem w)
    (hpcb : s.hasPcb s.ctx.pcb = true) (hwf : s.mem.wf s.cfg.memSize = true) : t.pcbRegs s.ctx.pcb = s.ctx.regs := by
  have haddr : t.pcbAddr s.ctx.pcb = s.pcbAddr s.ctx.pcb := by rw [State.pcbAddr, hcfg, State.pcbAddr]
  refine State.pcbRegs_eq fun j v hv => ?_
  rw [haddr, hmem]
  exact State.readWord_writebackMem_reg w (State.hasPcb_fits hpcb) hwf hv

/-- Settles O46: each signal's verdict, and the word that a writeback leaves in the block. -/
theorem signalDecidesStatusWord : Obligations.SignalDecidesStatusWord := by
  unfold Obligations.SignalDecidesStatusWord
  intro s sig w hm hp hn hfit hwf hw
  have hpcb := State.hasPcb_of_lt hn hfit
  have hend : endQuantum s sig = .next { s.writeback w with phase := .polling } := by
    cases sig with
    | quantumDone =>
      obtain rfl := hw
      exact endQuantum_keeps hpcb rfl
    | intDone =>
      obtain ⟨hr, rfl⟩ := hw
      exact endQuantum_keeps hpcb (if_pos hr)
    | memFault =>
      obtain ⟨hr, rfl⟩ := hw
      exact endQuantum_setsStatus (st := .cpuFault .mem) hpcb (if_neg hr)
    | privFault =>
      obtain ⟨hr, rfl⟩ := hw
      exact endQuantum_setsStatus (st := .cpuFault .priv) hpcb (if_neg hr)
    | syscallAbort n =>
      obtain rfl := hw
      cases ho : s.cfg.onSyscallAbort with
      | exitWithStatus => exact endQuantum_setsStatus (st := .exit n) hpcb (by rw [ho]; rfl)
      | keepStatus => exact endQuantum_keeps hpcb (by rw [ho]; rfl)
  refine ⟨_, (step_returned hm hp).trans hend, rfl, by simpa using hm, ?_⟩
  exact State.pcbStatus_of_writebackMem (s := s) (by simp) (by simp) hpcb hwf

/-- A move that ends a quantum writes back, KERNEL_FAULT's first move excepted (60_exceptions.md R304; log 15). -/
theorem step_writesBack {s t : State} (hm : s.machine = .running)
    (hp : (∃ sig, s.phase = .returned sig ∧ ¬ (sig = .memFault ∧ s.ctx.ring = 0#8)) ∨ ∃ r, s.phase = .stopping r)
    (h : step s = .next t) : s.hasPcb s.ctx.pcb = true ∧ ∃ w, t.mem = s.writebackMem w := by
  obtain ⟨sig, hp, hsig⟩ | ⟨r, hp⟩ := hp
  · rw [step_returned hm hp] at h
    obtain ⟨hpcb, ⟨w, rfl⟩ | ⟨-, hmem, hr⟩⟩ := endQuantum_next h
    · exact ⟨hpcb, w, by simp⟩
    · exact absurd ⟨hmem, hr⟩ hsig
  · rw [step_stopping hm hp] at h
    obtain ⟨hpcb, rfl⟩ := stopTurn_next h
    exact ⟨hpcb, s.ctx.statusWord, by simp⟩

/-- Settles O47: the writeback's memory, inside the register file's bytes and outside what it writes. -/
theorem quantumEndWritesRegistersBack : Obligations.QuantumEndWritesRegistersBack := by
  unfold Obligations.QuantumEndWritesRegistersBack
  intro s t hm hp hwf h
  obtain ⟨hpcb, w, hmem⟩ := step_writesBack hm hp h
  rw [hmem]
  exact ⟨fun j v hv => State.readWord_writebackMem_reg w (State.hasPcb_fits hpcb) hwf hv,
    fun a hstatus hregs => State.read_writebackMem_outside w hstatus hregs⟩

/-- Settles O48: KERNEL_FAULT's first move, and the stop's own move with its writeback. -/
theorem machineStopsWriteBackFirst : Obligations.MachineStopsWriteBackFirst := by
  unfold Obligations.MachineStopsWriteBackFirst
  intro s hm hn hfit hwf
  have hpcb := State.hasPcb_of_lt hn hfit
  refine ⟨fun hp hr => (step_returned hm hp).trans (endQuantum_kernelFault hpcb hr), fun r hp => ?_⟩
  exact ⟨_, step_stopping_eq hm hp hn hfit, machine_stop_writeback s s.ctx.statusWord r,
    State.pcbRegs_of_writebackMem (w := s.ctx.statusWord) (by simp) (by simp) hpcb hwf,
    State.pcbStatus_of_writebackMem (by simp) (by simp) hpcb hwf⟩

theorem State.runnable_eq_false {s t : State} {n : Nat} {w : Word} (hcfg : t.cfg = s.cfg) (hw : t.pcbStatus n = w)
    (hterminal : s.cfg.statusCode.isTerminal w = true) : t.runnable n = false := by
  rw [State.runnable, hcfg, hw, hterminal, Bool.not_true]

/-- A fault at a non-zero ring, or an abort that sets a status, gives the block a terminal word. -/
theorem interpret_terminal {s : State} {sig : Signal}
    (h : ((sig = .memFault ∨ sig = .privFault) ∧ s.ctx.ring ≠ 0#8) ∨
      ((∃ n, sig = .syscallAbort n) ∧ s.cfg.onSyscallAbort = .exitWithStatus)) :
    ∃ st, interpret s.cfg.onSyscallAbort s.ctx.ring sig = .setStatus st ∧
      s.cfg.statusCode.isTerminal (statusWordOf s.cfg.statusCode st) = true := by
  obtain ⟨rfl | rfl, hr⟩ | ⟨⟨n, rfl⟩, ho⟩ := h
  · exact ⟨.cpuFault .mem, if_neg hr, isTerminal_cpuFault _ _⟩
  · exact ⟨.cpuFault .priv, if_neg hr, isTerminal_cpuFault _ _⟩
  · exact ⟨.exit n, by rw [ho]; rfl, isTerminal_exit _ n⟩

/-- Settles O49: the verdict is a terminal status, and the writeback leaves its word in the block. -/
theorem faultedProcessIsNotRunnable : Obligations.FaultedProcessIsNotRunnable := by
  unfold Obligations.FaultedProcessIsNotRunnable
  intro s t sig hm hp hsig hwf h
  rw [step_returned hm hp] at h
  obtain ⟨hpcb, -⟩ := endQuantum_next h
  obtain ⟨st, hv, hterminal⟩ := interpret_terminal hsig
  cases (endQuantum_setsStatus hpcb hv).symm.trans h
  exact State.runnable_eq_false (by simp)
    (State.pcbStatus_of_writebackMem (w := statusWordOf s.cfg.statusCode st) (by simp) (by simp) hpcb hwf) hterminal

end Sys2Proof.Machine
end

section
/-! SUPPORT. The device poll and the shutdown (60_exceptions.md sections 2, 7), with the statements about them. -/

namespace Sys2Proof.Machine

/-! ## Clocking the devices -/

/-- Devices that return 0 are clocked once each, and the poll goes on behind them (60_exceptions.md R321, R322). -/
theorem clockDrivers_append {pre : List Driver} (post : List Driver) {n : Nat}
    (hpre : ∀ (k : Nat) (x : Driver), pre[k]? = some x → x.clockStatus (n + k) = 0) :
    clockDrivers n (pre ++ post) =
      ((clockDrivers (n + pre.length) post).1, pre.map Driver.afterClock ++ (clockDrivers (n + pre.length) post).2.1,
        (clockDrivers (n + pre.length) post).2.2) := by
  induction pre generalizing n with
  | nil => rfl
  | cons x pre ih =>
    have hx : x.clockStatus n = 0 := hpre 0 x rfl
    have htail := ih (n := n + 1) fun k y hy => by
      rw [Nat.add_assoc, Nat.add_comm 1]
      exact hpre (k + 1) y hy
    rw [List.cons_append, clockDrivers, if_pos hx, htail, List.length_cons, Nat.add_assoc, Nat.add_comm 1]
    rfl

/-- Another status than 0 decides and leaves the devices behind alone (60_exceptions.md R322). -/
theorem clockDrivers_nonzero {d : Driver} {n : Nat} (post : List Driver) (hd : d.clockStatus n ≠ 0) :
    clockDrivers n (d :: post) = (pollEndOf (d.clockStatus n), d.afterClock :: post, n + 1) := by
  rw [clockDrivers, if_neg hd]

/-- Settles O50: the devices before the first non-zero status, followed by none or by the deciding one. -/
theorem pollFirstNonZeroDecides : Obligations.PollFirstNonZeroDecides := by
  unfold Obligations.PollFirstNonZeroDecides
  intro n pre post d hpre
  have hok := clockDrivers_append [] hpre
  rw [List.append_nil] at hok
  refine ⟨by rw [hok]; rfl, by rw [hok]; exact List.append_nil _, by rw [hok]; rfl, ?_⟩
  rintro c rfl hc
  rw [clockDrivers_append (d :: post) hpre, clockDrivers_nonzero post hc]
  exact ⟨rfl, rfl, rfl⟩

/-! ## The poll's three ends -/

theorem State.userRunnable_iff (s : State) :
    s.userRunnable = true ↔ ∃ n, n < s.pcbCount ∧ s.pcbRing n ≠ 0#8 ∧ s.runnable n = true := by
  simp only [State.userRunnable, List.any_eq_true, List.mem_range, Bool.and_eq_true, bne_iff_ne]

/-- The state once the devices have been clocked. -/
def State.clocked (s : State) : State :=
  { s with drivers := (clockDrivers s.draws s.drivers).2.1, draws := (clockDrivers s.draws s.drivers).2.2 }

theorem pollTurn_allOk {s : State} (hfit : s.tableFits = true) (hend : (clockDrivers s.draws s.drivers).1 = .allOk) :
    pollTurn s = .next { s.clocked with waiting := s.userRunnable, phase := .schedule } := by
  rw [pollTurn, if_pos hfit]
  simp only [hend]
  rfl

theorem pollTurn_fatal {s : State} {r : FatalReason} (hfit : s.tableFits = true)
    (hend : (clockDrivers s.draws s.drivers).1 = .fatal r) : pollTurn s = .next (s.clocked.stopMachine r) := by
  rw [pollTurn, if_pos hfit]
  simp only [hend]
  rfl

theorem pollTurn_shutdown {s : State} (hfit : s.tableFits = true)
    (hend : (clockDrivers s.draws s.drivers).1 = .shutdown) :
    pollTurn s = .next (s.clocked.trapCall .shutdown zeroVector) := by
  rw [pollTurn, if_pos hfit]
  simp only [hend]
  rfl

/-- Settles O51: the poll's equation for each end of the clocking. -/
theorem pollOutcomes : Obligations.PollOutcomes := by
  unfold Obligations.PollOutcomes
  intro s hm hp hfit
  have hstep := step_polling hm hp
  have htable := State.tableFits_iff.mpr hfit
  cases hend : (clockDrivers s.draws s.drivers).1 with
  | allOk =>
    exact ⟨_, hstep.trans (pollTurn_allOk htable hend), rfl, rfl, rfl, rfl, fun _ => rfl, hm, rfl, s.userRunnable_iff⟩
  | fatal r => exact ⟨_, hstep.trans (pollTurn_fatal htable hend), rfl, rfl, rfl, rfl, fun _ => rfl, rfl⟩
  | shutdown => exact ⟨_, hstep.trans (pollTurn_shutdown htable hend), rfl, rfl, rfl, rfl, fun _ => rfl, hm, rfl⟩

/-- Settles O52: the trap's return for a shutdown request, and the step of a stopped machine. -/
theorem shutdownEndsMachine : Obligations.ShutdownEndsMachine := by
  unfold Obligations.ShutdownEndsMachine
  refine ⟨fun s t v hm hp h => ?_, fun s hm => step_stopped hm⟩
  rw [step_host hm hp] at h
  obtain ⟨u, -, rfl⟩ := hostMove_next h
  rfl

end Sys2Proof.Machine
end

section
/-! SUPPORT. What a step leaves alone (10_state.md section 7; 60_exceptions.md sections 5, 6): the parameters, the
context of a quantum, and the memory but for the running process's block, with the statements about it. -/

namespace Sys2Proof.Machine

/-! ## The context of a quantum -/

/-- The PCB, its PID, its ring and its segments are the same (60_exceptions.md R301). -/
structure SameContext (s t : State) : Prop where
  pcb : t.ctx.pcb = s.ctx.pcb
  ring : t.ctx.ring = s.ctx.ring
  pid : t.ctx.pid = s.ctx.pid
  segs : t.ctx.segs = s.ctx.segs

theorem SameContext.of_ctx_eq {s t : State} (h : t.ctx = s.ctx) : SameContext s t := by
  constructor <;> rw [h]

theorem SameContext.trans {s t u : State} (h : SameContext s t) (k : SameContext t u) : SameContext s u :=
  ⟨k.pcb.trans h.pcb, k.ring.trans h.ring, k.pid.trans h.pid, k.segs.trans h.segs⟩

theorem sameContext_writeback (s : State) (w : Word) : SameContext s (s.writeback w) := by
  constructor <;> simp

/-! ## A move of any agent but the host -/

/-- What such a move keeps: the parameters, the table's length and the segment lists, and all of memory or, at the
end of a quantum, all but what the writeback writes. -/
structure SilentMove (s t : State) : Prop where
  cfg : t.cfg = s.cfg
  pcbCount : t.pcbCount = s.pcbCount
  segTable : t.segTable = s.segTable
  memory : SameMemory s t ∨
    ((∃ sig, s.phase = .returned sig) ∨ ∃ r, s.phase = .stopping r) ∧ ∃ w, t.mem = s.writebackMem w

theorem SilentMove.of_mem_eq {s t : State} (cfg : t.cfg = s.cfg) (pcbCount : t.pcbCount = s.pcbCount)
    (segTable : t.segTable = s.segTable) (mem : t.mem = s.mem) : SilentMove s t :=
  ⟨cfg, pcbCount, segTable, .inl fun g => congrArg (Memory.read · g) mem⟩

theorem scheduleTurn_silent {s t : State} (h : scheduleTurn s = .next t) : SilentMove s t := by
  obtain ⟨-, rfl⟩ | ⟨n, -, -, -, rfl⟩ | ⟨n, -, -, -, rfl⟩ := scheduleTurn_next h <;> exact .of_mem_eq rfl rfl rfl rfl

/-- The engine writes no memory and keeps the context (20_memory.md section 3). -/
theorem engineTurn_silent {s t : State} (h : engineTurn s = .next t) : SilentMove s t ∧ SameContext s t := by
  obtain ⟨-, rfl⟩ | ⟨-, rfl⟩ | ⟨-, r, rfl⟩ | ⟨-, i, hexec⟩ := engineTurn_next h
  · exact ⟨.of_mem_eq rfl rfl rfl rfl, .of_ctx_eq rfl⟩
  · rw [State.fetchFault_eq]
    exact ⟨.of_mem_eq rfl rfl rfl rfl, ⟨rfl, rfl, rfl, rfl⟩⟩
  · exact ⟨.of_mem_eq rfl rfl rfl rfl, ⟨rfl, rfl, rfl, rfl⟩⟩
  · obtain ⟨hmem, hcount, hsegs, hcfg, -, -, -, -, hctx⟩ := noInstructionWritesSystemState i _ t hexec
    refine ⟨⟨by simpa using hcfg, by simpa using hcount, by simpa using hsegs, .inl fun g => by simpa using hmem g⟩, ?_⟩
    constructor <;> rw [hctx] <;> simp

/-- The end of a quantum writes back, or begins KERNEL_FAULT's stop (60_exceptions.md R304). -/
theorem endQuantum_silent {s t : State} {sig : Signal} (hp : s.phase = .returned sig) (h : endQuantum s sig = .next t) :
    SilentMove s t ∧ SameContext s t := by
  obtain ⟨-, ⟨w, rfl⟩ | ⟨rfl, -, -⟩⟩ := endQuantum_next h
  · exact ⟨⟨by simp, by simp, by simp, .inr ⟨.inl ⟨sig, hp⟩, w, by simp⟩⟩,
      (sameContext_writeback s w).trans (.of_ctx_eq rfl)⟩
  · exact ⟨.of_mem_eq rfl rfl rfl rfl, .of_ctx_eq rfl⟩

theorem stopTurn_silent {s t : State} {r : FatalReason} (hp : s.phase = .stopping r) (h : stopTurn s r = .next t) :
    SilentMove s t ∧ SameContext s t := by
  obtain ⟨-, rfl⟩ := stopTurn_next h
  exact ⟨⟨by simp, by simp, by simp, .inr ⟨.inr ⟨r, hp⟩, s.ctx.statusWord, by simp⟩⟩,
    (sameContext_writeback s s.ctx.statusWord).trans (.of_ctx_eq rfl)⟩

theorem pollTurn_silent {s t : State} (h : pollTurn s = .next t) : SilentMove s t ∧ SameContext s t := by
  obtain ⟨ds, n, ht | ⟨r, rfl⟩ | rfl⟩ := pollTurn_next h
  · rw [ht]; exact ⟨.of_mem_eq rfl rfl rfl rfl, .of_ctx_eq rfl⟩
  · exact ⟨.of_mem_eq rfl rfl rfl rfl, .of_ctx_eq rfl⟩
  · exact ⟨.of_mem_eq rfl rfl rfl rfl, .of_ctx_eq rfl⟩

/-! ## The host's move -/

/-- A trap's return writes registers at most (44_system.md R251, R252). -/
theorem State.trapReturn_keeps (s : State) (k : TrapKind) (r : TrapReply) :
    (s.trapReturn k r).cfg = s.cfg ∧ SameContext s (s.trapReturn k r) := by
  cases k with
  | syscall => cases r <;> exact ⟨rfl, rfl, rfl, rfl, rfl⟩
  | fetchFault => exact ⟨rfl, .of_ctx_eq rfl⟩
  | shutdown => exact ⟨rfl, .of_ctx_eq rfl⟩

theorem hostMove_keeps {s t : State} {k : TrapKind} (h : hostMove s k = .next t) : t.cfg = s.cfg ∧ SameContext s t := by
  obtain ⟨u, hu, rfl⟩ := hostMove_next h
  obtain ⟨hcfg, hctx⟩ := u.trapReturn_keeps k s.hostAnswer.reply
  exact ⟨hcfg.trans hu.cfg, (SameContext.of_ctx_eq (s := s) hu.ctx).trans hctx⟩

/-! ## The statements -/

/-- Settles O55: the host's move keeps the parameters, and so does every silent one. -/
theorem parametersNeverChange : Obligations.ParametersNeverChange := by
  unfold Obligations.ParametersNeverChange
  intro s t h
  obtain ⟨-, move⟩ := step_next h
  cases move with
  | schedule hp turn => exact (scheduleTurn_silent turn).cfg
  | engine hp turn => exact (engineTurn_silent turn).1.cfg
  | host k v hp turn => exact (hostMove_keeps turn).1
  | quantumEnd sig hp turn => exact (endQuantum_silent hp turn).1.cfg
  | machineStop r hp turn => exact (stopTurn_silent hp turn).1.cfg
  | poll hp turn => exact (pollTurn_silent turn).1.cfg

/-- Every move but the scheduler's keeps the context. -/
theorem step_sameContext {s t : State} (hp : s.phase ≠ .schedule) (h : step s = .next t) : SameContext s t := by
  obtain ⟨-, move⟩ := step_next h
  cases move with
  | schedule hschedule turn => exact absurd hschedule hp
  | engine hp turn => exact (engineTurn_silent turn).2
  | host k v hp turn => exact (hostMove_keeps turn).2
  | quantumEnd sig hp turn => exact (endQuantum_silent hp turn).2
  | machineStop r hp turn => exact (stopTurn_silent hp turn).2
  | poll hp turn => exact (pollTurn_silent turn).2

/-- Settles O54: the four fields of `SameContext`. -/
theorem contextFixedDuringQuantum : Obligations.ContextFixedDuringQuantum := by
  unfold Obligations.ContextFixedDuringQuantum
  intro s t hp h
  obtain ⟨hpcb, hring, hpid, hsegs⟩ := step_sameContext hp h
  exact ⟨hring, hsegs, hpid, hpcb⟩

/-- Every move but the host's is silent. -/
theorem step_silent {s t : State} (hp : ∀ k v, s.phase ≠ .suspended k v) (h : step s = .next t) : SilentMove s t := by
  obtain ⟨-, move⟩ := step_next h
  cases move with
  | schedule hp turn => exact scheduleTurn_silent turn
  | engine hp turn => exact (engineTurn_silent turn).1
  | host k v hhost turn => exact absurd hhost (hp k v)
  | quantumEnd sig hp turn => exact (endQuantum_silent hp turn).1
  | machineStop r hp turn => exact (stopTurn_silent hp turn).1
  | poll hp turn => exact (pollTurn_silent turn).1

/-- A silent move writes the running process's status word and saved registers at most. -/
theorem SilentMove.read_outside {s t : State} (h : SilentMove s t) {a : Nat}
    (hstatus : a < s.cfg.pcbBase + 28 * s.ctx.pcb ∨ s.cfg.pcbBase + 28 * s.ctx.pcb + 2 ≤ a)
    (hregs : a < s.cfg.pcbBase + 28 * s.ctx.pcb + 8 ∨ s.cfg.pcbBase + 28 * s.ctx.pcb + 28 ≤ a) :
    t.mem.read a = s.mem.read a := by
  obtain hsame | ⟨-, w, hmem⟩ := h.memory
  · exact hsame a
  · rw [hmem]
    exact State.read_writebackMem_outside w hstatus hregs

/-- Another process keeps its whole block: the blocks do not overlap (10_state.md R51). -/
theorem SilentMove.read_otherBlock {s t : State} (h : SilentMove s t) {n k : Nat} (hn : n ≠ s.ctx.pcb) (hk : k < 28) :
    t.mem.read (s.cfg.pcbBase + 28 * n + k) = s.mem.read (s.cfg.pcbBase + 28 * n + k) :=
  h.read_outside (by omega) (by omega)

theorem SilentMove.runnable_other {s t : State} (h : SilentMove s t) {n : Nat} (hn : n ≠ s.ctx.pcb) :
    t.runnable n = s.runnable n := by
  have hlo := h.read_otherBlock hn (k := 0) (by omega)
  have hhi := h.read_otherBlock hn (k := 1) (by omega)
  have hstatus : t.pcbStatus n = s.pcbStatus n := by
    simp only [State.pcbStatus, State.pcbAddr, pcbStride, Memory.readWord, h.cfg]
    rw [hhi]
    exact congrArg (wordOfBytes · _) hlo
  rw [State.runnable, State.runnable, h.cfg, hstatus]

/-- Settles O53: the move is silent, and a silent move's writes lie in the running process's block. -/
theorem onlyRunningBlockIsWritten : Obligations.OnlyRunningBlockIsWritten := by
  unfold Obligations.OnlyRunningBlockIsWritten
  intro s t hp h
  have hsilent := step_silent hp h
  refine ⟨hsilent.segTable, hsilent.pcbCount, fun hreturned hstopping => ?_, fun a => hsilent.read_outside, fun n hn =>
    ⟨fun k => hsilent.read_otherBlock hn, hsilent.runnable_other hn⟩⟩
  obtain hsame | ⟨⟨sig, hend⟩ | ⟨r, hstop⟩, -⟩ := hsilent.memory
  · exact hsame
  · exact absurd hend (hreturned sig)
  · exact absurd hstop (hstopping r)

end Sys2Proof.Machine
end

section
/-! SUPPORT. The invariant of the machine (`Inv`), operation by operation, with the statements about it. -/

namespace Sys2Proof.Machine

/-! ## What each shared operation keeps of the invariant -/

/-- Another phase keeps the invariant where it asks nothing that the context does not give. -/
theorem Inv.withPhase {s : State} (hs : Inv s) {p : Phase} (current : p.inQuantum = true → s.ctx.pcb < s.pcbCount)
    (privFault : p = .returned .privFault → s.ctx.ring ≠ 0#8) (intDone : p = .returned .intDone → s.ctx.ring = 0#8)
    (fetchTrap : ∀ v, p = .suspended .fetchFault v → s.ctx.ring ≠ 0#8 ∧ v = zeroVector)
    (syscallTrap : ∀ v, p = .suspended .syscall v → v = RegFile.vector s.ctx.regs) : Inv { s with phase := p } :=
  { memory := hs.memory, table := hs.table, members := hs.members, budget := hs.budget, trace := hs.trace,
    current, privFault, intDone, fetchTrap, syscallTrap }

theorem Inv.toSchedule {s : State} (hs : Inv s) : Inv { s with phase := .schedule } :=
  hs.withPhase nofun nofun nofun nofun nofun

theorem Inv.toPolling {s : State} (hs : Inv s) : Inv { s with phase := .polling } :=
  hs.withPhase nofun nofun nofun nofun nofun

theorem Inv.toRunning {s : State} (hs : Inv s) (hq : s.phase.inQuantum = true) : Inv { s with phase := .running } :=
  hs.withPhase (fun _ => hs.current hq) nofun nofun nofun nofun

theorem Inv.stop {s : State} (hs : Inv s) (hq : s.phase.inQuantum = true) {sig : Signal}
    (hpriv : sig = .privFault → s.ctx.ring ≠ 0#8) (hint : sig = .intDone → s.ctx.ring = 0#8) : Inv (s.stop sig) :=
  hs.withPhase (fun _ => hs.current hq) (fun h => hpriv (Phase.returned.inj h)) (fun h => hint (Phase.returned.inj h))
    nofun nofun

theorem Inv.fatal {s : State} (hs : Inv s) (hq : s.phase.inQuantum = true) (r : FatalReason) : Inv (s.fatal r) :=
  hs.withPhase (fun _ => hs.current hq) nofun nofun nofun nofun

theorem Inv.trapSyscall {s : State} (hs : Inv s) (hq : s.phase.inQuantum = true) :
    Inv (s.trapCall .syscall (RegFile.vector s.ctx.regs)) :=
  hs.withPhase (fun _ => hs.current hq) nofun nofun nofun (fun _ h => by cases h; rfl)

theorem Inv.trapShutdown {s : State} (hs : Inv s) (v : Vec6) : Inv (s.trapCall .shutdown v) :=
  hs.withPhase nofun nofun nofun nofun nofun

/-- The fetch fault makes its trap call at a non-zero ring only (40_engine_cycle.md R144). -/
theorem Inv.fetchFault {s : State} (hs : Inv s) (hq : s.phase.inQuantum = true) : Inv s.fetchFault := by
  unfold State.fetchFault
  split
  · exact hs.stop hq nofun nofun
  · rename_i hr
    exact hs.withPhase (fun _ => hs.current hq) nofun nofun (fun _ h => by cases h; exact ⟨hr, rfl⟩) nofun

/-- Outside a SYSCALL's suspension the register file is free. -/
theorem Inv.setRegs {s : State} (hs : Inv s) (hp : s.phase = .running) (f : RegFile) : Inv (s.setRegs f) :=
  { memory := hs.memory, table := hs.table, members := hs.members, budget := hs.budget, trace := hs.trace,
    current := hs.current, privFault := hs.privFault, intDone := hs.intDone, fetchTrap := hs.fetchTrap,
    syscallTrap := fun v h => by rw [State.setRegs_phase, hp] at h; cases h }

theorem Inv.withDrivers {s : State} (hs : Inv s) (ds : List Driver) (n : Nat) : Inv { s with drivers := ds, draws := n } :=
  { hs with }

theorem Inv.callDriver {s : State} (hs : Inv s) (p : Byte) (f : Driver → Driver) : Inv (s.callDriver p f) :=
  { hs with }

theorem Inv.countDraw {s : State} (hs : Inv s) : Inv s.countDraw :=
  { hs with }

theorem Inv.withWaiting {s : State} (hs : Inv s) (b : Bool) : Inv { s with waiting := b } :=
  { hs with }

theorem Inv.withMachine {s : State} (hs : Inv s) (m : MachineStatus) : Inv { s with machine := m } :=
  { hs with }

theorem Inv.countStep {s : State} (hs : Inv s) (hlt : s.ctx.steps < s.cfg.quantum) : Inv s.countStep :=
  { hs with budget := hlt }

theorem Inv.noteExecuted {s : State} (hs : Inv s) (i : Instr) : Inv (s.noteExecuted i) := by
  obtain ⟨tr, htr, heq⟩ := s.noteExecuted_eq i
  rw [heq]
  exact { hs with trace := htr.trans (max_le hs.trace le_rfl) }

theorem Inv.startPass {s : State} (hs : Inv s) : Inv s.startPass :=
  { hs with members := fun _ hn => List.mem_range.mp hn }

theorem Inv.nextMember {s : State} (hs : Inv s) (b : Bool) : Inv (s.nextMember b) :=
  { hs with }

/-- The context of a PCB of the table begins a quantum (60_exceptions.md R301). -/
theorem Inv.load {s : State} (hs : Inv s) {n : Nat} (hn : n < s.pcbCount) :
    Inv { s with ctx := s.contextOf n, phase := .running } :=
  { memory := hs.memory, table := hs.table, members := hs.members, current := fun _ => hn, budget := Nat.zero_le _,
    trace := Nat.zero_le _, privFault := nofun, intDone := nofun, fetchTrap := nofun, syscallTrap := nofun }

/-- The writeback stays inside the running process's block (60_exceptions.md R304). -/
theorem Inv.writeback {s : State} (hs : Inv s) (hpcb : s.hasPcb s.ctx.pcb = true) (w : Word) : Inv (s.writeback w) where
  memory := by
    rw [State.writeback_mem, State.writeback_cfg]
    exact State.wf_writebackMem w (State.hasPcb_fits hpcb) hs.memory
  table := by
    have htable := State.tableFits_iff.mp hs.table
    rw [State.tableFits_iff, State.writeback_cfg, State.writeback_pcbCount]
    exact htable
  members := by simpa using hs.members
  current := by simpa using hs.current
  budget := by simpa using hs.budget
  trace := by simpa using hs.trace
  privFault := by simpa using hs.privFault
  intDone := by simpa using hs.intDone
  fetchTrap := by simpa using hs.fetchTrap
  syscallTrap := by simpa using hs.syscallTrap

/-- The host's acts leave all that the invariant speaks of alone but the memory and the table, which stay well formed. -/
theorem HostKeeps.inv {s t : State} (h : HostKeeps s t) (hs : Inv s) : Inv t where
  memory := h.memory hs.table hs.memory
  table := h.table hs.table
  members := fun n hn => (hs.members n (h.sched ▸ hn)).trans_le h.pcbCount
  current := fun hq => h.ctx ▸ (hs.current (h.phase ▸ hq)).trans_le h.pcbCount
  budget := h.ctx ▸ h.cfg ▸ hs.budget
  trace := h.ctx ▸ h.cfg ▸ hs.trace
  privFault := h.ctx ▸ h.phase ▸ hs.privFault
  intDone := h.ctx ▸ h.phase ▸ hs.intDone
  fetchTrap := h.ctx ▸ h.phase ▸ hs.fetchTrap
  syscallTrap := h.ctx ▸ h.phase ▸ hs.syscallTrap

/-! ## The turns -/

theorem ExecEffect.inv {s t : State} (h : ExecEffect s t) (hs : Inv s) (hp : s.phase = .running) : Inv t := by
  have hq : s.phase.inQuantum = true := hp ▸ rfl
  cases h with
  | completes f => exact hs.setRegs hp f
  | reads p g f => exact (hs.callDriver p g).countDraw.setRegs hp f
  | writes p g f => exact (hs.callDriver p g).setRegs hp f
  | suspends => exact hs.trapSyscall hq
  | memFault => exact hs.stop hq nofun nofun
  | privFault ring => exact hs.stop hq (fun _ => ring) nofun
  | intDone f ring => exact (hs.setRegs hp f).stop hq nofun (fun _ => ring)
  | stops r => exact hs.fatal hq r

theorem engineTurn_inv {s t : State} (hs : Inv s) (hp : s.phase = .running) (h : engineTurn s = .next t) : Inv t := by
  have hq : s.phase.inQuantum = true := hp ▸ rfl
  obtain ⟨-, rfl⟩ | ⟨hlt, rfl⟩ | ⟨hlt, r, rfl⟩ | ⟨hlt, i, hexec⟩ := engineTurn_next h
  · exact hs.stop hq nofun nofun
  · exact (hs.countStep hlt).fetchFault hq
  · exact (hs.countStep hlt).fatal hq r
  · exact (exec_next hexec).inv ((hs.countStep hlt).noteExecuted i) (by simpa using hp)

theorem scheduleTurn_inv {s t : State} (hs : Inv s) (hp : s.phase = .schedule) (h : scheduleTurn s = .next t) : Inv t := by
  obtain ⟨-, rfl⟩ | ⟨n, hn, -, -, rfl⟩ | ⟨n, -, -, -, rfl⟩ := scheduleTurn_next h
  · cases s.sched.ran with
    | false => exact hs.startPass.toPolling
    | true => rw [hp]; exact hs.startPass.toSchedule
  · exact (hs.nextMember true).load (hs.members n (List.mem_of_getElem? hn))
  · exact hs.nextMember _

theorem endQuantum_inv {s t : State} {sig : Signal} (hs : Inv s) (hp : s.phase = .returned sig)
    (h : endQuantum s sig = .next t) : Inv t := by
  obtain ⟨hpcb, ⟨w, rfl⟩ | ⟨rfl, -, -⟩⟩ := endQuantum_next h
  · exact (hs.writeback hpcb w).toPolling
  · exact hs.fatal (hp ▸ rfl) _

theorem stopTurn_inv {s t : State} {r : FatalReason} (hs : Inv s) (h : stopTurn s r = .next t) : Inv t := by
  obtain ⟨hpcb, rfl⟩ := stopTurn_next h
  exact (hs.writeback hpcb _).withMachine _

theorem pollTurn_inv {s t : State} (hs : Inv s) (h : pollTurn s = .next t) : Inv t := by
  obtain ⟨ds, n, ht | ⟨r, rfl⟩ | rfl⟩ := pollTurn_next h
  · rw [ht]; exact ((hs.withDrivers ds n).withWaiting _).toSchedule
  · exact (hs.withDrivers ds n).withMachine _
  · exact (hs.withDrivers ds n).trapShutdown _

theorem hostMove_inv {s t : State} {k : TrapKind} {v : Vec6} (hs : Inv s) (hp : s.phase = .suspended k v)
    (h : hostMove s k = .next t) : Inv t := by
  obtain ⟨u, hu, rfl⟩ := hostMove_next h
  have hup : u.phase = .suspended k v := hu.phase.trans hp
  have hui : Inv u := hu.inv { hs with }
  cases k with
  | syscall =>
    have hq : u.phase.inQuantum = true := hup ▸ rfl
    cases s.hostAnswer.reply with
    | resume w => exact ((hui.toRunning hq).setRegs rfl _).setRegs rfl _
    | abort n => exact hui.stop hq nofun nofun
  | fetchFault => exact hui.stop (hup ▸ rfl) nofun nofun
  | shutdown => exact hui.withMachine _

/-- Settles O57: each agent's move keeps the invariant. -/
theorem stepKeepsInvariant : Obligations.StepKeepsInvariant := by
  unfold Obligations.StepKeepsInvariant
  intro s t hs h
  obtain ⟨-, move⟩ := step_next h
  cases move with
  | schedule hp turn => exact scheduleTurn_inv hs hp turn
  | engine hp turn => exact engineTurn_inv hs hp turn
  | host k v hp turn => exact hostMove_inv hs hp turn
  | quantumEnd sig hp turn => exact endQuantum_inv hs hp turn
  | machineStop r hp turn => exact stopTurn_inv hs turn
  | poll hp turn => exact pollTurn_inv hs turn

/-! ## Progress -/

theorem scheduleTurn_total {s : State} (hs : Inv s) : ∃ t, scheduleTurn s = .next t := by
  cases hmember : s.sched.members[s.sched.next]? with
  | none => exact ⟨_, scheduleTurn_passEnds hmember⟩
  | some n =>
    have hpcb : s.hasPcb n = true := (s.hasPcb_iff n).mpr ⟨hs.members n (List.mem_of_getElem? hmember), hs.table⟩
    cases hrun : s.runnable n with
    | true => exact ⟨_, scheduleTurn_loads hmember hpcb hrun⟩
    | false => exact ⟨_, scheduleTurn_skips hmember hpcb hrun⟩

theorem engineTurn_total (s : State) : ∃ t, engineTurn s = .next t := by
  by_cases hlt : s.ctx.steps < s.cfg.quantum
  · cases ht : translate s.ctx.segs s.ip.toNat 1 with
    | none => exact ⟨_, engineTurn_fetchFault hlt ht⟩
    | some g =>
      cases hd : decode s.cfg.incdec (s.window g) with
      | error r => exact ⟨_, engineTurn_rejects hlt ht hd⟩
      | ok i => exact engineTurn_executes hlt ht hd ▸ exec_total i _
  · exact ⟨_, engineTurn_spent (Nat.not_lt.mp hlt)⟩

/-- The block of the process whose quantum it is. -/
theorem Inv.hasPcb {s : State} (hs : Inv s) (hq : s.phase.inQuantum = true) : s.hasPcb s.ctx.pcb = true :=
  (s.hasPcb_iff _).mpr ⟨hs.current hq, hs.table⟩

/-- The invariant rules out the signals that cannot occur at the ring (60_exceptions.md R303). -/
theorem endQuantum_total {s : State} {sig : Signal} (hs : Inv s) (hp : s.phase = .returned sig) :
    ∃ t, endQuantum s sig = .next t := by
  have hpcb : s.hasPcb s.ctx.pcb = true := hs.hasPcb (hp ▸ rfl)
  cases sig with
  | quantumDone => exact ⟨_, endQuantum_keeps hpcb rfl⟩
  | memFault =>
    by_cases hr : s.ctx.ring = 0#8
    · exact ⟨_, endQuantum_kernelFault hpcb hr⟩
    · exact ⟨_, endQuantum_setsStatus hpcb (if_neg hr)⟩
  | privFault => exact ⟨_, endQuantum_setsStatus hpcb (if_neg (hs.privFault hp))⟩
  | syscallAbort n =>
    cases ho : s.cfg.onSyscallAbort with
    | exitWithStatus => exact ⟨_, endQuantum_setsStatus (st := .exit n) hpcb (by rw [ho]; rfl)⟩
    | keepStatus => exact ⟨_, endQuantum_keeps hpcb (by rw [ho]; rfl)⟩
  | intDone => exact ⟨_, endQuantum_keeps hpcb (if_pos (hs.intDone hp))⟩

theorem pollTurn_total {s : State} (hs : Inv s) : ∃ t, pollTurn s = .next t := by
  cases hend : (clockDrivers s.draws s.drivers).1 with
  | allOk => exact ⟨_, pollTurn_allOk hs.table hend⟩
  | fatal r => exact ⟨_, pollTurn_fatal hs.table hend⟩
  | shutdown => exact ⟨_, pollTurn_shutdown hs.table hend⟩

theorem hostMove_total (s : State) (k : TrapKind) :
    (∃ t, hostMove s k = .next t) ∨ hostMove s k = .refused .pcbTableOutsideMemory := by
  cases hacts : s.takeAnswer.hostEffects s.hostAnswer.effects with
  | some u => exact .inl ⟨_, hostMove_eq hacts⟩
  | none => exact .inr (by rw [hostMove, hacts])

/-- Settles O58: under the invariant every agent's turn has a next state, the host's refused append excepted. -/
theorem invariantMeansProgress : Obligations.InvariantMeansProgress := by
  unfold Obligations.InvariantMeansProgress
  intro s hs hm
  cases hp : s.phase with
  | schedule => exact .inl (step_schedule hm hp ▸ scheduleTurn_total hs)
  | running => exact .inl (step_engine hm hp ▸ engineTurn_total s)
  | suspended k v =>
    rw [step_host hm hp]
    exact (hostMove_total s k).imp_right fun hrefused => ⟨k, v, rfl, hrefused⟩
  | returned sig => exact .inl (step_returned hm hp ▸ endQuantum_total hs hp)
  | stopping r => exact .inl ⟨_, (step_stopping hm hp).trans (if_pos (hs.hasPcb (hp ▸ rfl)))⟩
  | polling => exact .inl (step_polling hm hp ▸ pollTurn_total hs)

end Sys2Proof.Machine
end

section
/-! SUPPORT. Launch and reset (70_reset_and_hazards.md): what the loader leaves in memory, with the statements about
the first state of a run. -/

namespace Sys2Proof.Machine

/-! ## The loader's memory -/

/-- Blocks of one length written one after another: byte `k` of block `n` lies at `c * n + k`. -/
theorem getElem?_flatMap_block {α : Type} {f : α → List Byte} {c : Nat} (hlen : ∀ x, (f x).length = c) {xs : List α}
    {n k : Nat} {x : α} (hx : xs[n]? = some x) (hk : k < c) : (xs.flatMap f)[c * n + k]? = (f x)[k]? := by
  induction xs generalizing n with
  | nil => cases hx
  | cons y ys ih =>
    cases n with
    | zero =>
      cases hx
      rw [List.flatMap_cons, Nat.mul_zero, Nat.zero_add, List.getElem?_append_left (by rw [hlen]; exact hk)]
    | succ n =>
      rw [List.flatMap_cons, List.getElem?_append_right (by rw [hlen, Nat.mul_succ]; omega), hlen]
      rw [show c * (n + 1) + k - c = c * n + k by rw [Nat.mul_succ]; omega]
      exact ih hx

theorem length_flatMap_blocks (ps : List PcbBlock) : (ps.flatMap PcbBlock.bytes).length = 28 * ps.length := by
  rw [List.length_flatMap]
  simp [Nat.mul_comm]

/-- The images lie in the memory, so placing them keeps its canonical form (20_memory.md R83). -/
theorem Memory.wf_foldl_write {size : Nat} {image : List (Nat × Byte)} (hfit : ∀ e ∈ image, e.1 < size) {m : Memory}
    (hm : m.wf size = true) : (image.foldl (fun m e => m.write e.1 e.2) m).wf size = true := by
  induction image generalizing m with
  | nil => exact hm
  | cons e image ih =>
    exact ih (fun x hx => hfit x (List.mem_cons_of_mem e hx)) (Memory.wf_write e.2 (hfit e List.mem_cons_self) hm)

section
variable {l : Launch} (hl : l.wf = true)
include hl

theorem Launch.wf_table : l.cfg.pcbBase + 28 * l.pcbs.length ≤ l.cfg.memSize := by
  simp only [Launch.wf, Bool.and_eq_true] at hl
  exact of_decide_eq_true hl.1.2

theorem Launch.wf_image : ∀ e ∈ l.image, e.1 < l.cfg.memSize := by
  simp only [Launch.wf, Bool.and_eq_true, Launch.imageFits, List.all_eq_true, decide_eq_true_eq] at hl
  exact hl.2

theorem Launch.memory_wf : (Launch.memory l).wf l.cfg.memSize = true :=
  Memory.wf_writeBytes (by rw [length_flatMap_blocks]; exact Launch.wf_table hl)
    (Memory.wf_foldl_write (Launch.wf_image hl) (Memory.wf_nil _))

/-- A launch that the model accepts begins in a state that meets the invariant. -/
theorem launch_inv : Inv (State.launch l) where
  memory := Launch.memory_wf hl
  table := State.tableFits_iff.mpr (Launch.wf_table hl)
  members := fun _ hn => List.mem_range.mp hn
  current := nofun
  budget := Nat.zero_le _
  trace := Nat.zero_le _
  privFault := nofun
  intDone := nofun
  fetchTrap := nofun
  syscallTrap := nofun

variable {n : Nat} {b : PcbBlock} (hb : l.pcbs[n]? = some b)
include hb

/-- Each byte of a block lies at its offset from the block's base (10_state.md R51). -/
theorem launch_read {k : Nat} {v : Byte} (hk : k < 28) (hv : (PcbBlock.bytes b)[k]? = some v) :
    (State.launch l).mem.read ((State.launch l).pcbAddr n + k) = v := by
  have hn : n < l.pcbs.length := (List.getElem?_eq_some_iff.mp hb).1
  have hbyte := (getElem?_flatMap_block PcbBlock.bytes_length hb hk).trans hv
  obtain ⟨hlen, hget⟩ := List.getElem?_eq_some_iff.mp hbyte
  change (Launch.memory l).read (l.cfg.pcbBase + 28 * n + k) = v
  rw [Launch.memory, Nat.add_assoc, Memory.read_writeBytes_inside (size := l.cfg.memSize) _ _ _ _ hlen
    (by rw [length_flatMap_blocks]; exact Launch.wf_table hl)
    (Memory.wf_foldl_write (Launch.wf_image hl) (Memory.wf_nil _)), hget]

theorem launch_readWord {k : Nat} {w : Word} (hk : k + 1 < 28) (hlo : (PcbBlock.bytes b)[k]? = some (lowByte w))
    (hhi : (PcbBlock.bytes b)[k + 1]? = some (highByte w)) :
    (State.launch l).mem.readWord ((State.launch l).pcbAddr n + k) = w := by
  rw [Memory.readWord, launch_read hl hb (by omega) hlo, Nat.add_assoc, launch_read hl hb hk hhi, wordOfBytes_bytes]

/-- The saved registers lie from offset 8 on, in layout order. -/
theorem launch_pcbRegs : (State.launch l).pcbRegs n = b.regs := by
  refine State.pcbRegs_eq fun j v hv => ?_
  have hj : j < 10 := (List.getElem?_eq_some_iff.mp hv).1
  obtain ⟨hlo, hhi⟩ := getElem?_flatMap_pair lowByte highByte (RegFile.words b.regs) j
  rw [hv, Option.map_some] at hlo hhi
  rw [Nat.add_assoc, Nat.add_comm 8]
  exact launch_readWord hl hb (by omega) hlo (by rw [Nat.add_right_comm]; exact hhi)

end

/-- Settles O60: each field of the block is read from its offset. -/
theorem launchedBlocksReadBack : Obligations.LaunchedBlocksReadBack := by
  unfold Obligations.LaunchedBlocksReadBack
  intro l n b hl hb
  exact ⟨launch_readWord hl hb (k := 0) (by decide) rfl rfl, launch_read hl hb (k := 2) (by decide) rfl,
    launch_read hl hb (k := 3) (by decide) rfl, launch_readWord hl hb (k := 4) (by decide) rfl rfl,
    launch_readWord hl hb (k := 6) (by decide) rfl rfl, launch_pcbRegs hl hb, launch_inv hl⟩

/-! ## Reset -/

/-- The launch with the reset parameters and nothing else (log 7). -/
def emptyLaunch : Launch := ⟨resetConfig, [], [], [], []⟩

theorem launch_emptyLaunch : State.launch emptyLaunch = State.reset := rfl

/-- Settles O56: reset is a well-formed launch. -/
theorem resetSatisfiesInvariant : Obligations.ResetSatisfiesInvariant := by
  unfold Obligations.ResetSatisfiesInvariant
  rw [← launch_emptyLaunch]
  exact launch_inv (by decide)

/-- Settles O59: the fields of `State.reset`. -/
theorem resetValues : Obligations.ResetValues := by
  unfold Obligations.ResetValues
  exact ⟨rfl, rfl, rfl, rfl, rfl, rfl, rfl⟩

end Sys2Proof.Machine
end
